-- ==== Sys2Proof/Word.lean ====
section
/-! DEFINITION. The word types of the block (spec 00_scope.md R4 "Widths", R5). Only types and their
plainest packing stand here. -/

namespace Sys2Proof

/-- A buffer cell, a character code or a GF(256) element: 8 bits (R4). -/
abbrev Byte := BitVec 8

/-- A command word or a response word: 32 bits (R60, R63). -/
abbrev Word32 := BitVec 32

/-- The `value` field of a response: 24 bits, unsigned (R63). -/
abbrev Value := BitVec 24

/-- The 15-bit format word of `FMT.ENC` and `QR.FMT` (R4, R141). -/
abbrev FormatWord := BitVec 15

/-- The four byte-wide fields of a word, most significant first: `{op, a, b, c}` (R5, R60). -/
def packBytes (op a b c : Byte) : Word32 :=
  (op.setWidth 32 <<< 24) ||| (a.setWidth 32 <<< 16) ||| (b.setWidth 32 <<< 8) ||| c.setWidth 32

end Sys2Proof
end

