-- ==== Sys2Proof/Config.lean ====
section
/-! DEFINITION. The implementation parameters of spec 00_scope.md R4: the sizes and literal constants of
this hardware, and the parameters the spec leaves OPEN, which are arguments and never values chosen here.
The lookup tables (EXP, LOG, GEN, the alphabet, the strips) stand in Machine/Tables.lean. The spec leaves no value of
the block free (R30, 93_implementation_defined.md treats nothing as `any value`), so no opaque constant stands here. -/

namespace Sys2Proof.Config

/-- `N_DATA`: data codewords of a version 1-L symbol (R4). -/
def nData : Nat := 19

/-- `N_EC`: error-correction codewords (R4). -/
def nEc : Nat := 7

/-- `N_CW`: total codewords (R4). -/
def nCw : Nat := 26

/-- `DATA_BITS`: the data capacity in bits (R4). -/
def dataBits : Nat := 152

/-- `BMAX`: size of the BYTES buffer (R4, R41). -/
def bMax : Nat := 20

/-- `SMAX`: size of the SYMS buffer (R4, R41). -/
def sMax : Nat := 32

/-- `QR_SIZE`: modules per side (R4). -/
def qrSize : Nat := 21

/-- `QUIET`: width of the quiet zone in modules (R4, R193). -/
def quiet : Nat := 4

/-- `ID_LEN`: bytes of an identifier (R4, R180). -/
def idLen : Nat := 7

/-- `WORD_COUNT`: words of the dictionary (R4, R181). -/
def wordCount : Nat := 256

/-- `WORD_LEN`: characters of a dictionary word (R4, R181). -/
def wordLen : Nat := 5

/-- `SUFFIX_LEN`: base32 symbols of a human code's suffix (R4, R184). -/
def suffixLen : Nat := 8

end Sys2Proof.Config
end

