-- ==== Sys2Proof/Syntax.lean ====
section
/-! DEFINITION. The 21 commands of spec 30_encoding.md R64, one constructor per row of spec/opcode_table.json, in
the table's order. Operand order is the assembler's (R68): `a`, then `b`, or `imm15`. Addresses, offsets, lengths,
indices and coordinates are numbers (R62: "an unsigned integer taken from its field as it stands");
data bytes, characters and field elements are bytes; the format word is 15 bits. -/

namespace Sys2Proof

inductive Instr where
  /-- `NOP` (R80). -/
  | nop
  /-- `BUF.WR addr, data` (R81). -/
  | bufWr (addr : Nat) (data : Byte)
  /-- `BUF.RD addr` (R82). -/
  | bufRd (addr : Nat)
  /-- `CSR.RD idx` (R83). -/
  | csrRd (idx : Nat)
  /-- `B32.ENC off, len` (R95). -/
  | b32Enc (off len : Nat)
  /-- `B32.DEC cnt` (R96). -/
  | b32Dec (cnt : Nat)
  /-- `B32.SYM v` (R97). -/
  | b32Sym (v : Nat)
  /-- `B32.VAL ch` (R98). -/
  | b32Val (ch : Byte)
  /-- `CK5 off, len` (R106). -/
  | ck5 (off len : Nat)
  /-- `GF.EXP i` (R114). -/
  | gfExp (i : Nat)
  /-- `GF.LOG v` (R115). -/
  | gfLog (v : Byte)
  /-- `GF.MUL x, y` (R116). -/
  | gfMul (x y : Byte)
  /-- `RS.GEN j` (R130). -/
  | rsGen (j : Nat)
  /-- `RS.ENC` (R131). -/
  | rsEnc
  /-- `RS.SYN i` (R132). -/
  | rsSyn (i : Nat)
  /-- `FMT.ENC d` (R144). -/
  | fmtEnc (d : Nat)
  /-- `QR.INIT` (R161). -/
  | qrInit
  /-- `QR.DATA` (R162). -/
  | qrData
  /-- `QR.FMT imm15` (R164). -/
  | qrFmt (imm15 : FormatWord)
  /-- `QR.GET y, x` (R165): row first. -/
  | qrGet (y x : Nat)
  /-- `QR.ROW y, sel` (R166). -/
  | qrRow (y sel : Nat)
  deriving DecidableEq, Repr

end Sys2Proof
end

