-- ==== Sys2Proof/WellFormed.lean ====
section
/-! DEFINITION. Which instructions a command word can carry: every numeric operand fits its 8-bit field
(spec 30_encoding.md R60, R62). The byte and 15-bit operands fit by their types. Whether an operand lies in the command's
LEGAL set is not asked here: a command with an operand outside it is well formed and answers RANGE (R62, R213). -/

namespace Sys2Proof

/-- A number that an 8-bit operand field can hold: the range 0..255 of R62. -/
def fits8 (n : Nat) : Bool := decide (n < 256)

/-- The instruction can be written as a command word. -/
def Instr.wf : Instr → Bool
  | .nop => true
  | .bufWr addr _ => fits8 addr
  | .bufRd addr => fits8 addr
  | .csrRd idx => fits8 idx
  | .b32Enc off len => fits8 off && fits8 len
  | .b32Dec cnt => fits8 cnt
  | .b32Sym v => fits8 v
  | .b32Val _ => true
  | .ck5 off len => fits8 off && fits8 len
  | .gfExp i => fits8 i
  | .gfLog _ => true
  | .gfMul _ _ => true
  | .rsGen j => fits8 j
  | .rsEnc => true
  | .rsSyn i => fits8 i
  | .fmtEnc d => fits8 d
  | .qrInit => true
  | .qrData => true
  | .qrFmt _ => true
  | .qrGet y x => fits8 y && fits8 x
  | .qrRow y sel => fits8 y && fits8 sel

end Sys2Proof
end

