-- ==== Sys2Proof/Decode.lean ====
section
/-! DEFINITION. The command decoder and the encoder (spec 30_encoding.md R60 to R67). Decoding is total: it
answers the one row of R64 the word matches, or says by name why there is none (R65, R66). The encoder after it is written
from the same tables; Tests/Slice0.lean holds one word per constructor, written out from the spec. -/

namespace Sys2Proof

/-- Why a word is an illegal command (R66, R213): both reasons answer ILLEGAL_CMD. -/
inductive Illegal where
  /-- `op` is not in the opcode map. -/
  | unknownOp
  /-- `op` is listed, and a must-be-zero bit of its format is 1. -/
  | mustBeZero
  deriving DecidableEq, Repr

/-! ### The fields of a command word (R60) -/

def opField (w : Word32) : Byte := w.extractLsb' 24 8
def aField (w : Word32) : Byte := w.extractLsb' 16 8
def bField (w : Word32) : Byte := w.extractLsb' 8 8
def cField (w : Word32) : Byte := w.extractLsb' 0 8
def imm15Field (w : Word32) : FormatWord := w.extractLsb' 0 15
/-- `cmd[23:15]`, the must-be-zero bits of format I15. -/
def i15ZeroField (w : Word32) : BitVec 9 := w.extractLsb' 15 9

/-! ### The four formats (R61): each checks its must-be-zero bits and hands on its operands -/

/-- Format Z: no operand; `a`, `b` and `c` must be 0. -/
def formatZ (w : Word32) (i : Instr) : Except Illegal Instr :=
  if aField w = 0 ∧ bField w = 0 ∧ cField w = 0 then .ok i else .error .mustBeZero

/-- Format A: one operand in `a`; `b` and `c` must be 0. -/
def formatA (w : Word32) (i : Byte → Instr) : Except Illegal Instr :=
  if bField w = 0 ∧ cField w = 0 then .ok (i (aField w)) else .error .mustBeZero

/-- Format AB: operands in `a` and `b`; `c` must be 0. -/
def formatAB (w : Word32) (i : Byte → Byte → Instr) : Except Illegal Instr :=
  if cField w = 0 then .ok (i (aField w) (bField w)) else .error .mustBeZero

/-- Format I15: one 15-bit operand; `cmd[23:15]` must be 0. -/
def formatI15 (w : Word32) (i : FormatWord → Instr) : Except Illegal Instr :=
  if i15ZeroField w = 0 then .ok (i (imm15Field w)) else .error .mustBeZero

/-- The decoder (R64, R65): reads `op`, finds the row, checks the row's must-be-zero bits and hands the
operand fields on. An `op` with no row is illegal (R66). -/
def decode (w : Word32) : Except Illegal Instr :=
  match (opField w).toNat with
  | 0x00 => formatZ w .nop
  | 0x01 => formatAB w fun a b => .bufWr a.toNat b
  | 0x02 => formatA w fun a => .bufRd a.toNat
  | 0x03 => formatA w fun a => .csrRd a.toNat
  | 0x10 => formatAB w fun a b => .b32Enc a.toNat b.toNat
  | 0x11 => formatA w fun a => .b32Dec a.toNat
  | 0x12 => formatA w fun a => .b32Sym a.toNat
  | 0x13 => formatA w fun a => .b32Val a
  | 0x20 => formatAB w fun a b => .ck5 a.toNat b.toNat
  | 0x30 => formatA w fun a => .gfExp a.toNat
  | 0x31 => formatA w fun a => .gfLog a
  | 0x32 => formatAB w fun a b => .gfMul a b
  | 0x40 => formatA w fun a => .rsGen a.toNat
  | 0x41 => formatZ w .rsEnc
  | 0x42 => formatA w fun a => .rsSyn a.toNat
  | 0x50 => formatA w fun a => .fmtEnc a.toNat
  | 0x60 => formatZ w .qrInit
  | 0x61 => formatZ w .qrData
  | 0x62 => formatI15 w fun imm15 => .qrFmt imm15
  | 0x63 => formatAB w fun a b => .qrGet a.toNat b.toNat
  | 0x64 => formatAB w fun a b => .qrRow a.toNat b.toNat
  | _ => .error .unknownOp

/-! ### The encoder -/

/-- A numeric operand in its 8-bit field. -/
def field8 (n : Nat) : Byte := BitVec.ofNat 8 n

/-- The command word of an instruction (R60, R61, R64). Of an instruction that is not well formed it keeps the low 8
bits of each operand. -/
def encode : Instr → Word32
  | .nop => packBytes 0x00 0 0 0
  | .bufWr addr data => packBytes 0x01 (field8 addr) data 0
  | .bufRd addr => packBytes 0x02 (field8 addr) 0 0
  | .csrRd idx => packBytes 0x03 (field8 idx) 0 0
  | .b32Enc off len => packBytes 0x10 (field8 off) (field8 len) 0
  | .b32Dec cnt => packBytes 0x11 (field8 cnt) 0 0
  | .b32Sym v => packBytes 0x12 (field8 v) 0 0
  | .b32Val ch => packBytes 0x13 ch 0 0
  | .ck5 off len => packBytes 0x20 (field8 off) (field8 len) 0
  | .gfExp i => packBytes 0x30 (field8 i) 0 0
  | .gfLog v => packBytes 0x31 v 0 0
  | .gfMul x y => packBytes 0x32 x y 0
  | .rsGen j => packBytes 0x40 (field8 j) 0 0
  | .rsEnc => packBytes 0x41 0 0 0
  | .rsSyn i => packBytes 0x42 (field8 i) 0 0
  | .fmtEnc d => packBytes 0x50 (field8 d) 0 0
  | .qrInit => packBytes 0x60 0 0 0
  | .qrData => packBytes 0x61 0 0 0
  | .qrFmt imm15 => packBytes 0x62 0 0 0 ||| imm15.setWidth 32
  | .qrGet y x => packBytes 0x63 (field8 y) (field8 x) 0
  | .qrRow y sel => packBytes 0x64 (field8 y) (field8 sel) 0

/-! ### The opcode table (R64), for claims about encodings -/

/-- A row's `match` and `mask` (R61, R64). -/
structure Row where
  pattern : Word32
  mask : Word32
  deriving DecidableEq, Repr

/-- A row of each format (R61). -/
def rowZ (op : Byte) : Row := ⟨packBytes op 0 0 0, 0xFFFFFFFF⟩
def rowA (op : Byte) : Row := ⟨packBytes op 0 0 0, 0xFF00FFFF⟩
def rowAB (op : Byte) : Row := ⟨packBytes op 0 0 0, 0xFF0000FF⟩
def rowI15 (op : Byte) : Row := ⟨packBytes op 0 0 0, 0xFFFF8000⟩

/-- The row of R64 an instruction belongs to. -/
def Instr.row : Instr → Row
  | .nop => rowZ 0x00
  | .bufWr _ _ => rowAB 0x01
  | .bufRd _ => rowA 0x02
  | .csrRd _ => rowA 0x03
  | .b32Enc _ _ => rowAB 0x10
  | .b32Dec _ => rowA 0x11
  | .b32Sym _ => rowA 0x12
  | .b32Val _ => rowA 0x13
  | .ck5 _ _ => rowAB 0x20
  | .gfExp _ => rowA 0x30
  | .gfLog _ => rowA 0x31
  | .gfMul _ _ => rowAB 0x32
  | .rsGen _ => rowA 0x40
  | .rsEnc => rowZ 0x41
  | .rsSyn _ => rowA 0x42
  | .fmtEnc _ => rowA 0x50
  | .qrInit => rowZ 0x60
  | .qrData => rowZ 0x61
  | .qrFmt _ => rowI15 0x62
  | .qrGet _ _ => rowAB 0x63
  | .qrRow _ _ => rowAB 0x64

/-- The 21 rows of R64 in opcode order. -/
def opcodeTable : List Row :=
  [rowZ 0x00, rowAB 0x01, rowA 0x02, rowA 0x03, rowAB 0x10, rowA 0x11, rowA 0x12, rowA 0x13, rowAB 0x20, rowA 0x30,
   rowA 0x31, rowAB 0x32, rowA 0x40, rowZ 0x41, rowA 0x42, rowA 0x50, rowZ 0x60, rowZ 0x61, rowI15 0x62, rowAB 0x63,
   rowAB 0x64]

/-- The word a row's rule matches: `(cmd and mask) = match` (R64). -/
def Row.matches (r : Row) (w : Word32) : Bool := decide (w &&& r.mask = r.pattern)

/-- The host's entry: the instruction read from a word whose low `nbits` bits are `w` and whose other bits are 0.
Every command is one 32-bit word (R60, R67), so the table's numbering is the word's own. -/
def decodeTableWord (nbits w : Nat) : Option Instr :=
  match decode (BitVec.ofNat 32 (w % 2 ^ nbits)) with
  | .ok i => some i
  | .error _ => none

end Sys2Proof
end

