-- ==== Sys2Proof/Machine/State.lean ====
section
/-! DEFINITION. The state of the block (spec 10_state.md R20 to R30) as plain data, the reasons a step can stop, and the state
after reset. The constant tables of R20 are definitions (Machine/Tables.lean), as R20 asks. -/

namespace Sys2Proof.Machine

/-- The buffer space `BUF` (R40, R41): the bytes that differ from 0, by address, addresses rising. An address that is
not listed reads 0x00, the reset value of every mapped byte (R30); an unmapped address is never listed. -/
abbrev Memory := List Host.Cell

/-- One 21 × 21 plane of modules (R26, R27): `p[y][x]`, row `y` from the top, column `x` from the left. -/
abbrev Plane := Vector (Vector Bool 21) 21

/-- A plane given by its cells. -/
def Plane.ofFn (f : (y x : Fin 21) → Bool) : Plane := Vector.ofFn fun y => Vector.ofFn fun x => f y x

/-- A plane of zeros. -/
def Plane.blank : Plane := Plane.ofFn fun _ _ => false

/-- The machine. The first four fields are the block's whole mutable state (R20). The last three are the
command port seen from outside (R3, R21, R63): the model's bookkeeping, not state of the block (assumption log 1). -/
structure State where
  /-- `BUF`, the buffer space (R41). -/
  buf : Memory
  /-- `MOD`, the modules: true is dark (R26). -/
  mod : Plane
  /-- `FUNC`, the function-module classification (R27). -/
  func : Plane
  /-- `QRST`, the stage register (R28): bit 0 INIT_DONE, bit 1 DATA_DONE, bit 2 FMT_DONE. -/
  qrst : BitVec 3
  /-- The host's command list so far (R3, R21). -/
  commands : List Word32
  /-- The index in `commands` of the next command to accept (R21). -/
  pc : Nat
  /-- The response words given so far, first command's first (R3, R49, R63). -/
  responses : List Word32
  deriving DecidableEq, Repr

/-- The block has no fault that stops it: a failed command is a response with a non-OK status, and the next
command is taken as usual (R211, R218). So this type has no constructor: nothing raises a fault, which is safe, since the
spec gives every word a response in every state (R66, R237). -/
inductive Fault where
  deriving DecidableEq, Repr

/-- Why a step has no meaning in this model. -/
inductive Refusal where
  /-- The instruction of this mnemonic has no meaning yet. Raised by an arm of exec only; no arm of this model raises it.
  Safe: the model stops where the block goes on. -/
  | notModelled (mnemonic : String)
  deriving DecidableEq, Repr

/-- The state right after reset (R30, R235): every mapped byte 0x00, both planes 0, the stage 0b000. The command port's
bookkeeping starts empty: no command offered, none answered (assumption log 1). -/
def State.reset : State where
  buf := []
  mod := Plane.blank
  func := Plane.blank
  qrst := 0b000
  commands := []
  pc := 0
  responses := []

end Sys2Proof.Machine
end

