-- ==== Sys2Proof/Machine/Tables.lean ====
section
/-! DEFINITION. The constant tables of the block (spec 10_state.md R20, R24, R25; 70_reset_and_hazards.md R236). No
command writes one. Each is written out once, as the spec prints it; the statements of Certificates/Slice0 hold them against the rules
they are computed from. -/

namespace Sys2Proof.Machine

/-- `ID` (R23, R83): "A", "W", version 1. -/
def idValue : Value := 0x415701

/-! ### GF(256) (43_gf256.md R110, R111) -/

/-- `EXP`, 16 entries a row, as R111 prints it. -/
def expRows : List (List Byte) :=
  [[0x01, 0x02, 0x04, 0x08, 0x10, 0x20, 0x40, 0x80, 0x1D, 0x3A, 0x74, 0xE8, 0xCD, 0x87, 0x13, 0x26],
   [0x4C, 0x98, 0x2D, 0x5A, 0xB4, 0x75, 0xEA, 0xC9, 0x8F, 0x03, 0x06, 0x0C, 0x18, 0x30, 0x60, 0xC0],
   [0x9D, 0x27, 0x4E, 0x9C, 0x25, 0x4A, 0x94, 0x35, 0x6A, 0xD4, 0xB5, 0x77, 0xEE, 0xC1, 0x9F, 0x23],
   [0x46, 0x8C, 0x05, 0x0A, 0x14, 0x28, 0x50, 0xA0, 0x5D, 0xBA, 0x69, 0xD2, 0xB9, 0x6F, 0xDE, 0xA1],
   [0x5F, 0xBE, 0x61, 0xC2, 0x99, 0x2F, 0x5E, 0xBC, 0x65, 0xCA, 0x89, 0x0F, 0x1E, 0x3C, 0x78, 0xF0],
   [0xFD, 0xE7, 0xD3, 0xBB, 0x6B, 0xD6, 0xB1, 0x7F, 0xFE, 0xE1, 0xDF, 0xA3, 0x5B, 0xB6, 0x71, 0xE2],
   [0xD9, 0xAF, 0x43, 0x86, 0x11, 0x22, 0x44, 0x88, 0x0D, 0x1A, 0x34, 0x68, 0xD0, 0xBD, 0x67, 0xCE],
   [0x81, 0x1F, 0x3E, 0x7C, 0xF8, 0xED, 0xC7, 0x93, 0x3B, 0x76, 0xEC, 0xC5, 0x97, 0x33, 0x66, 0xCC],
   [0x85, 0x17, 0x2E, 0x5C, 0xB8, 0x6D, 0xDA, 0xA9, 0x4F, 0x9E, 0x21, 0x42, 0x84, 0x15, 0x2A, 0x54],
   [0xA8, 0x4D, 0x9A, 0x29, 0x52, 0xA4, 0x55, 0xAA, 0x49, 0x92, 0x39, 0x72, 0xE4, 0xD5, 0xB7, 0x73],
   [0xE6, 0xD1, 0xBF, 0x63, 0xC6, 0x91, 0x3F, 0x7E, 0xFC, 0xE5, 0xD7, 0xB3, 0x7B, 0xF6, 0xF1, 0xFF],
   [0xE3, 0xDB, 0xAB, 0x4B, 0x96, 0x31, 0x62, 0xC4, 0x95, 0x37, 0x6E, 0xDC, 0xA5, 0x57, 0xAE, 0x41],
   [0x82, 0x19, 0x32, 0x64, 0xC8, 0x8D, 0x07, 0x0E, 0x1C, 0x38, 0x70, 0xE0, 0xDD, 0xA7, 0x53, 0xA6],
   [0x51, 0xA2, 0x59, 0xB2, 0x79, 0xF2, 0xF9, 0xEF, 0xC3, 0x9B, 0x2B, 0x56, 0xAC, 0x45, 0x8A, 0x09],
   [0x12, 0x24, 0x48, 0x90, 0x3D, 0x7A, 0xF4, 0xF5, 0xF7, 0xF3, 0xFB, 0xEB, 0xCB, 0x8B, 0x0B, 0x16],
   [0x2C, 0x58, 0xB0, 0x7D, 0xFA, 0xE9, 0xCF, 0x83, 0x1B, 0x36, 0x6C, 0xD8, 0xAD, 0x47, 0x8E]]

/-- `EXP[i]` for `i` in 0..254 (R110). The table has no entry from 255 up; every use reduces the index modulo 255 first. -/
def expTable (i : Nat) : Byte := (expRows.getD (i / 16) []).getD (i % 16) 0

/-- `LOG`, 16 entries a row, as R111 prints it: element 0 has no entry. -/
def logRows : List (List (Option Nat)) :=
  [[none, some 0, some 1, some 25, some 2, some 50, some 26, some 198, some 3, some 223, some 51, some 238, some 27, some 104, some 199, some 75],
   [some 4, some 100, some 224, some 14, some 52, some 141, some 239, some 129, some 28, some 193, some 105, some 248, some 200, some 8, some 76, some 113],
   [some 5, some 138, some 101, some 47, some 225, some 36, some 15, some 33, some 53, some 147, some 142, some 218, some 240, some 18, some 130, some 69],
   [some 29, some 181, some 194, some 125, some 106, some 39, some 249, some 185, some 201, some 154, some 9, some 120, some 77, some 228, some 114, some 166],
   [some 6, some 191, some 139, some 98, some 102, some 221, some 48, some 253, some 226, some 152, some 37, some 179, some 16, some 145, some 34, some 136],
   [some 54, some 208, some 148, some 206, some 143, some 150, some 219, some 189, some 241, some 210, some 19, some 92, some 131, some 56, some 70, some 64],
   [some 30, some 66, some 182, some 163, some 195, some 72, some 126, some 110, some 107, some 58, some 40, some 84, some 250, some 133, some 186, some 61],
   [some 202, some 94, some 155, some 159, some 10, some 21, some 121, some 43, some 78, some 212, some 229, some 172, some 115, some 243, some 167, some 87],
   [some 7, some 112, some 192, some 247, some 140, some 128, some 99, some 13, some 103, some 74, some 222, some 237, some 49, some 197, some 254, some 24],
   [some 227, some 165, some 153, some 119, some 38, some 184, some 180, some 124, some 17, some 68, some 146, some 217, some 35, some 32, some 137, some 46],
   [some 55, some 63, some 209, some 91, some 149, some 188, some 207, some 205, some 144, some 135, some 151, some 178, some 220, some 252, some 190, some 97],
   [some 242, some 86, some 211, some 171, some 20, some 42, some 93, some 158, some 132, some 60, some 57, some 83, some 71, some 109, some 65, some 162],
   [some 31, some 45, some 67, some 216, some 183, some 123, some 164, some 118, some 196, some 23, some 73, some 236, some 127, some 12, some 111, some 246],
   [some 108, some 161, some 59, some 82, some 41, some 157, some 85, some 170, some 251, some 96, some 134, some 177, some 187, some 204, some 62, some 90],
   [some 203, some 89, some 95, some 176, some 156, some 169, some 160, some 81, some 11, some 245, some 22, some 235, some 122, some 117, some 44, some 215],
   [some 79, some 174, some 213, some 233, some 230, some 231, some 173, some 232, some 116, some 214, some 244, some 234, some 168, some 80, some 88, some 175]]

/-- `LOG[v]`: none for 0, which has no logarithm (R110). -/
def logTable (v : Byte) : Option Nat := (logRows.getD (v.toNat / 16) []).getD (v.toNat % 16) none

/-! ### Reed-Solomon (44_reed_solomon.md R126) -/

/-- `GEN[0..7]`: the generator polynomial's coefficients, constant term first. -/
def genList : List Byte := [0x75, 0x44, 0x0B, 0xA4, 0x9A, 0x7A, 0x7F, 0x01]

/-- `GEN[j]`, the coefficient of x^j. -/
def genTable (j : Nat) : Byte := genList.getD j 0

/-! ### Base32 (41_base32.md R90, R92) -/

/-- `B32_ALPHABET` as character codes, value 0 first (R90). -/
def alphabetCodes : List Byte :=
  [0x30, 0x31, 0x32, 0x33, 0x34, 0x35, 0x36, 0x37, 0x38, 0x39, 0x41, 0x42, 0x43, 0x44, 0x45, 0x46,
   0x47, 0x48, 0x4A, 0x4B, 0x4D, 0x4E, 0x50, 0x51, 0x52, 0x53, 0x54, 0x56, 0x57, 0x58, 0x59, 0x5A]

/-- `CONFUSABLE` (R92): O to 0, I to 1, L to 1, U to V. -/
def confusablePairs : List (Byte × Byte) := [(0x4F, 0x30), (0x49, 0x31), (0x4C, 0x31), (0x55, 0x56)]

/-! ### Format information (45_bch_format.md R140, 00_scope.md R4) -/

/-- `BCH_GEN`, the generator of the BCH(15,5) code. -/
def bchGen : FormatWord := 0x537

/-- `FMT_XOR`, the fixed mask of the format word. -/
def fmtXor : FormatWord := 0x5412

/-- `FMT_DESC_L0`: level L, mask 0 (R143; the spec marks the value as the QR standard's, G6). -/
def fmtDescL0 : BitVec 5 := 0b01000

/-! ### Checksum (42_checksum.md R105) -/

/-- `FNV_BASIS`. -/
def fnvBasis : BitVec 32 := 0x811C9DC5

/-- `FNV_PRIME`. -/
def fnvPrime : BitVec 32 := 0x01000193

/-! ### Module placement (46_qr_placement.md R151 to R155) -/

/-- The coordinates of a module, written (x, y) as in 46_qr_placement.md: column, then row. -/
structure Coord where
  x : Fin 21
  y : Fin 21
  deriving DecidableEq, Repr

/-- `FINDER`, row by row from the top, true is dark (R152). -/
def finderRows : List (List Bool) :=
  [[true, true, true, true, true, true, true],
   [true, false, false, false, false, false, true],
   [true, false, true, true, true, false, true],
   [true, false, true, true, true, false, true],
   [true, false, true, true, true, false, true],
   [true, false, false, false, false, false, true],
   [true, true, true, true, true, true, true]]

/-- `FINDER[dy][dx]`; light outside the 7 × 7 pattern. -/
def finder (dy dx : Nat) : Bool := (finderRows.getD dy []).getD dx false

/-- The three corners (R151, R161): the origin of the 8 × 8 region and of the 7 × 7 pattern inside it, as
x0, y0, px, py. -/
def corners : List (Nat × Nat × Nat × Nat) := [(0, 0, 0, 0), (13, 0, 14, 0), (0, 13, 0, 14)]

/-- `STRIP_A`, around the top-left finder; index 0 takes bit 14 (R155). -/
def stripA : List Coord :=
  [⟨0, 8⟩, ⟨1, 8⟩, ⟨2, 8⟩, ⟨3, 8⟩, ⟨4, 8⟩, ⟨5, 8⟩, ⟨7, 8⟩, ⟨8, 8⟩,
   ⟨8, 7⟩, ⟨8, 5⟩, ⟨8, 4⟩, ⟨8, 3⟩, ⟨8, 2⟩, ⟨8, 1⟩, ⟨8, 0⟩]

/-- `STRIP_B`, along the bottom-left and top-right edges (R155). -/
def stripB : List Coord :=
  [⟨8, 20⟩, ⟨8, 19⟩, ⟨8, 18⟩, ⟨8, 17⟩, ⟨8, 16⟩, ⟨8, 15⟩, ⟨8, 14⟩,
   ⟨13, 8⟩, ⟨14, 8⟩, ⟨15, 8⟩, ⟨16, 8⟩, ⟨17, 8⟩, ⟨18, 8⟩, ⟨19, 8⟩, ⟨20, 8⟩]

/-- The dark module, row 13, column 8 (R154). -/
def darkModule : Coord := ⟨8, 13⟩

/-- The right-hand columns of the ten column pairs, in scanning order: column 6 is skipped as a whole (R159). -/
def pairColumns : List (Fin 21 × Fin 21) :=
  [(20, 19), (18, 17), (16, 15), (14, 13), (12, 11), (10, 9), (8, 7), (5, 4), (3, 2), (1, 0)]

end Sys2Proof.Machine
end

