-- ==== Sys2Proof/Machine/Operands.lean ====
section
/-! DEFINITION. What the operands of a command may be (spec 20_memory.md R41, R42; 30_encoding.md R62): the buffer map, the
three regions, and the bit strings a byte or a number stands for, most significant bit first (20_memory.md R43). -/

namespace Sys2Proof.Machine

/-! ### The buffer map (R41) -/

/-- `CW[0..25]`. -/
def inCw (a : Nat) : Bool := decide (a ≤ 0x19)
/-- `BYTES[0..19]`. -/
def inBytes (a : Nat) : Bool := decide (0x20 ≤ a ∧ a ≤ 0x33)
/-- `SYMS[0..31]`. -/
def inSyms (a : Nat) : Bool := decide (0x40 ≤ a ∧ a ≤ 0x5F)

/-- The addresses that hold a byte; all others are unmapped and hold no state (R41, R81). -/
def mapped (a : Nat) : Bool := inCw a || inBytes a || inSyms a

/-- The first address of each region (R6, R41). -/
def cwBase : Nat := 0x00
def bytesBase : Nat := 0x20
def symsBase : Nat := 0x40

/-- A range of BYTES lies inside the region: the sum is an unbounded integer and never wraps (R42). -/
def bytesRangeOk (off len : Nat) : Bool := decide (off + len ≤ Config.bMax)

/-! ### Bits, most significant first (R5, R43) -/

/-- The low `n` bits of a number, most significant first: bit n-1 down to bit 0. -/
def bitsOf : Nat → Nat → List Bool
  | 0, _ => []
  | n + 1, v => v.testBit n :: bitsOf n v

/-- The bits of a byte, bit 7 first. -/
def byteBits (b : Byte) : List Bool := bitsOf 8 b.toNat

/-- A byte sequence as one bit string: bit 8·i + j of it is bit 7 - j of byte i (R43, R91). -/
def bytesBits (bs : List Byte) : List Bool := bs.flatMap byteBits

/-- The number a bit string stands for, its first bit the most significant. -/
def ofBits (bits : List Bool) : Nat := bits.foldl (fun v b => 2 * v + b.toNat) 0

/-- A bit string cut into bytes, first bit the most significant; a last piece shorter than 8 bits is
dropped (R94). -/
def bytesOfBits : List Bool → List Byte
  | b7 :: b6 :: b5 :: b4 :: b3 :: b2 :: b1 :: b0 :: rest =>
    BitVec.ofNat 8 (ofBits [b7, b6, b5, b4, b3, b2, b1, b0]) :: bytesOfBits rest
  | _ => []

end Sys2Proof.Machine
end

