-- ==== Sys2Proof/Machine/Flags.lean ====
section
/-! DEFINITION. The flag-like state of the block is the stage register QRST alone: there are no condition codes
(spec 10_state.md R22, R28). Here stand its three bits, what the QR commands make of them, and the statuses of a
response (60_exceptions.md R210), which are returned and never stored (R211). -/

namespace Sys2Proof.Machine

/-- `QRST[0]` INIT_DONE: a symbol has been started since reset (R28). -/
def State.initDone (s : State) : Bool := s.qrst.getLsbD 0
/-- `QRST[1]` DATA_DONE: the data is placed in this symbol (R28). -/
def State.dataDone (s : State) : Bool := s.qrst.getLsbD 1
/-- `QRST[2]` FMT_DONE: the format word is written in this symbol (R28). -/
def State.fmtDone (s : State) : Bool := s.qrst.getLsbD 2

/-- `QRST <- 0b001`, the stage after `QR.INIT` (R28, R161). -/
def stageInit : BitVec 3 := 0b001
/-- `QRST[1] <- 1` (R162). -/
def setDataDone (q : BitVec 3) : BitVec 3 := q ||| 0b010
/-- `QRST[2] <- 1` (R164). -/
def setFmtDone (q : BitVec 3) : BitVec 3 := q ||| 0b100

/-- The six statuses; the block returns no other (R210). -/
inductive Status where
  | ok
  | invalidChar
  | gfDomain
  | illegalCmd
  | range
  | seq
  deriving DecidableEq, Repr

/-- The code of a status in `rsp[31:24]` (R210). -/
def statusCode : Status → Byte
  | .ok => 0x00
  | .invalidChar => 0x01
  | .gfDomain => 0x02
  | .illegalCmd => 0x10
  | .range => 0x11
  | .seq => 0x12

/-- The response word: `status = rsp[31:24]`, `value = rsp[23:0]` (R63). -/
def responseWord (st : Status) (v : Value) : Word32 := ((statusCode st).setWidth 32 <<< 24) ||| v.setWidth 32

/-- The status field of a response word (R63). -/
def responseStatus (w : Word32) : Byte := w.extractLsb' 24 8
/-- The value field of a response word (R63). -/
def responseValue (w : Word32) : Value := w.extractLsb' 0 24

end Sys2Proof.Machine
end

