-- ==== Sys2Proof/Machine/Ops.lean ====
section
/-! DEFINITION. The named operations every command is written with: one byte of the buffer space, a range of it, one
module, a list of modules, and how a command ends (spec 00_scope.md R6, R7). Ending with a non-OK status is the block's
whole exception mechanism: it saves nothing, changes no mode and transfers control nowhere, and there is no return from it
(60_exceptions.md R211, R212, R218, R219). -/

namespace Sys2Proof.Machine

/-! ### The buffer space (R40, R41) -/

/-- The byte at an address: an address that is not listed reads 0x00, as every mapped byte does after reset (R30). -/
def Memory.read (m : Memory) (a : Nat) : Byte :=
  match m with
  | [] => 0
  | (b, w) :: rest => if a = b then w else Memory.read rest a

/-- A cell put where its address belongs, in a list that holds no cell of that address. -/
def Memory.place (m : Memory) (a : Nat) (v : Byte) : Memory :=
  match m with
  | [] => [(a, v)]
  | (b, w) :: rest => if a < b then (a, v) :: (b, w) :: rest else (b, w) :: Memory.place rest a v

/-- `MemWrite(addr, 1, v)` (R6): the cell's old entry goes, and the new value is listed unless it is the 0x00 an unlisted
address reads. An unmapped address holds no state, so nothing is stored there (R41, U2). -/
def Memory.write (m : Memory) (a : Nat) (v : Byte) : Memory :=
  if mapped a then
    let rest := m.filter fun c => c.1 != a
    if v = 0 then rest else Memory.place rest a v
  else m

/-- The canonical form: addresses strictly rising, every entry different from what an unlisted address reads, and every
address mapped (R41). -/
abbrev Memory.wf (m : Memory) : Prop :=
  m.Pairwise (fun c d => c.1 < d.1) ∧ ∀ c ∈ m, c.2 ≠ 0 ∧ mapped c.1 = true

/-- `n` bytes from address `base` on, lowest address first (R43). -/
def Memory.readRange (m : Memory) (base n : Nat) : List Byte := (List.range n).map fun i => m.read (base + i)

/-- Bytes stored from address `base` on, the first at the lowest address (R43). -/
def Memory.writeRange (m : Memory) (base : Nat) (bs : List Byte) : Memory :=
  match bs with
  | [] => m
  | b :: rest => Memory.writeRange (m.write base b) (base + 1) rest

/-- `CW[i]` (R6). -/
def State.cw (s : State) (i : Nat) : Byte := s.buf.read (cwBase + i)
/-- `BYTES[i]` (R6). -/
def State.bytes (s : State) (i : Nat) : Byte := s.buf.read (bytesBase + i)
/-- `SYMS[i]` (R6). -/
def State.syms (s : State) (i : Nat) : Byte := s.buf.read (symsBase + i)

/-- `CW[0..n-1]` as a list. -/
def State.cwList (s : State) (n : Nat) : List Byte := s.buf.readRange cwBase n
/-- `BYTES[off..off+len-1]` as a list. -/
def State.bytesList (s : State) (off len : Nat) : List Byte := s.buf.readRange (bytesBase + off) len
/-- `SYMS[0..n-1]` as a list. -/
def State.symsList (s : State) (n : Nat) : List Byte := s.buf.readRange symsBase n

/-! ### The module space (R26, R27, R40) -/

/-- `P[y][x]`. -/
def Plane.get (p : Plane) (c : Coord) : Bool := p[c.y][c.x]

/-- `P[y][x] <- b`. -/
def Plane.put (p : Plane) (c : Coord) (b : Bool) : Plane := p.set c.y (p[c.y].set c.x b)

/-- A list of module writes, done first to last. -/
def Plane.putAll (p : Plane) (ws : List (Coord × Bool)) : Plane :=
  match ws with
  | [] => p
  | (c, b) :: rest => Plane.putAll (p.put c b) rest

/-! ### The fields of the state -/

def State.withBuf (s : State) (m : Memory) : State := { s with buf := m }
def State.withMod (s : State) (p : Plane) : State := { s with mod := p }
def State.withFunc (s : State) (p : Plane) : State := { s with func := p }
def State.withQrst (s : State) (q : BitVec 3) : State := { s with qrst := q }
/-- The response word leaves the block (R3, R63). -/
def State.withResponse (s : State) (w : Word32) : State := { s with responses := s.responses ++ [w] }
/-- The index of R21 moves on by exactly 1. -/
def State.tick (s : State) : State := { s with pc := s.pc + 1 }

/-! ### How a command ends (R7) -/

/-- `respond(value)`: status OK and the value. -/
def respond (v : Value) (s : State) : Host.Outcome State Fault Refusal :=
  .next (s.withResponse (responseWord .ok v))

/-- `raise S`: the non-OK status, value 0, and no other change. A meaning raises on the state it was given, so every
assignment it made is discarded (R7, R211, R212, R218). -/
def raise (st : Status) (s : State) : Host.Outcome State Fault Refusal :=
  .next (s.withResponse (responseWord st 0))

/-- A number as a response value: `zext_24` of a result below 2^24 (R63). -/
def value (n : Nat) : Value := BitVec.ofNat 24 n

end Sys2Proof.Machine
end

