-- ==== Sys2Proof/Machine/Base32.lean ====
section
/-! DEFINITION. The ToleranceBase32 unit (spec 41_base32.md R90 to R98): the normalisation, the two functions on byte and
character sequences, and the four commands. -/

namespace Sys2Proof.Machine

/-! ### Characters (R90, R92, R93) -/

/-- `isAlnum` as the block has it, fixed: the 62 ASCII codes (R92, U17). -/
def asciiAlnum (ch : Byte) : Bool :=
  decide ((0x30 ≤ ch.toNat ∧ ch.toNat ≤ 0x39) ∨ (0x41 ≤ ch.toNat ∧ ch.toNat ≤ 0x5A) ∨ (0x61 ≤ ch.toNat ∧ ch.toNat ≤ 0x7A))

/-- Step (2) of the normalisation: 0x61..0x7A to 0x41..0x5A, every other code left alone (R92). -/
def upperCode (ch : Byte) : Byte := if 0x61 ≤ ch.toNat ∧ ch.toNat ≤ 0x7A then ch - 0x20 else ch

/-- Step (3) of the normalisation: the confusable map, one-way and applied once (R92). -/
def confusableMap (ch : Byte) : Byte :=
  match confusablePairs.find? fun p => p.1 == ch with
  | some p => p.2
  | none => ch

/-- The character code of the alphabet symbol of a 5-bit value (R90). -/
def alphabetCode (v : Nat) : Byte := alphabetCodes.getD v 0

/-- The strict lookup: the `v` in 0..31 whose symbol the code is, if there is one (R93). -/
def alphabetIndex (ch : Byte) : Option Nat := alphabetCodes.idxOf? ch

/-- `b32_value(ch)`: none is the failure `invalid_char`. One character is not stripped (R93). -/
def b32Value (ch : Byte) : Option Nat := alphabetIndex (confusableMap (upperCode ch))

/-! ### Sequences (R91, R94) -/

/-- A bit string cut into 5-bit groups, first bit the most significant; a last partial group is left-aligned
and zero-padded on the right (R91). -/
def groupsOfBits : List Bool → List Nat
  | [] => []
  | [b4] => [ofBits [b4, false, false, false, false]]
  | [b4, b3] => [ofBits [b4, b3, false, false, false]]
  | [b4, b3, b2] => [ofBits [b4, b3, b2, false, false]]
  | [b4, b3, b2, b1] => [ofBits [b4, b3, b2, b1, false]]
  | b4 :: b3 :: b2 :: b1 :: b0 :: rest => ofBits [b4, b3, b2, b1, b0] :: groupsOfBits rest

/-- `b32_encode(bytes)`: the character codes of ceil(8·n/5) symbols (R91). -/
def b32Encode (bytes : List Byte) : List Byte := (groupsOfBits (bytesBits bytes)).map alphabetCode

/-- `b32_decode(chars)` for a predicate of what is alphanumeric: the kept characters' values as a bit string, cut into
bytes, the trailing fragment dropped whatever its value; none is `invalid_char` (R94, D15). -/
def b32Decode (isAlnum : Byte → Bool) (chars : List Byte) : Option (List Byte) :=
  ((chars.filter isAlnum).mapM b32Value).map fun vs => bytesOfBits (vs.flatMap (bitsOf 5))

/-! ### Commands -/

/-- `B32.ENC off, len` (R95). -/
def execB32Enc (off len : Nat) (s : State) : Host.Outcome State Fault Refusal :=
  if bytesRangeOk off len then
    let out := b32Encode (s.bytesList off len)
    respond (value out.length) (s.withBuf (s.buf.writeRange symsBase out))
  else raise .range s

/-- `B32.DEC cnt` (R96): RANGE is looked at before the characters (R213); the INVALID_CHAR arm stays in the rule, though
with the block's `isAlnum` no character reaches it (R214). -/
def execB32Dec (cnt : Nat) (s : State) : Host.Outcome State Fault Refusal :=
  if cnt ≤ Config.sMax then
    match b32Decode asciiAlnum (s.symsList cnt) with
    | some bytes => respond (value bytes.length) (s.withBuf (s.buf.writeRange bytesBase bytes))
    | none => raise .invalidChar s
  else raise .range s

/-- `B32.SYM v` (R97). -/
def execB32Sym (v : Nat) (s : State) : Host.Outcome State Fault Refusal :=
  if v ≤ 31 then respond ((alphabetCode v).setWidth 24) s else raise .range s

/-- `B32.VAL ch` (R98). -/
def execB32Val (ch : Byte) (s : State) : Host.Outcome State Fault Refusal :=
  match b32Value ch with
  | some v => respond (value v) s
  | none => raise .invalidChar s

end Sys2Proof.Machine
end

