-- ==== Sys2Proof/Machine/Checksum.lean ====
section
/-! DEFINITION. The checksum unit (spec 42_checksum.md R105 to R107). -/

namespace Sys2Proof.Machine

/-- One step of FNV-1a: exclusive or with the byte, then the multiplication modulo 2^32 (R105). -/
def fnvStep (hash : BitVec 32) (b : Byte) : BitVec 32 := (hash ^^^ b.setWidth 32) * fnvPrime

/-- The FNV-1a 32-bit hash of a byte sequence, first byte first (R105). -/
def fnv1a (bytes : List Byte) : BitVec 32 := bytes.foldl fnvStep fnvBasis

/-- The fold of R105: two logical shifts, then the low 5 bits. -/
def foldHash (hash : BitVec 32) : BitVec 5 :=
  let h1 := hash ^^^ (hash >>> 16)
  let h2 := h1 ^^^ (h1 >>> 8)
  h2.setWidth 5

/-- `checksum5(bytes)` (R105). -/
def checksum5 (bytes : List Byte) : BitVec 5 := foldHash (fnv1a bytes)

/-- `CK5 off, len` (R106). -/
def execCk5 (off len : Nat) (s : State) : Host.Outcome State Fault Refusal :=
  if bytesRangeOk off len then respond ((checksum5 (s.bytesList off len)).setWidth 24) s else raise .range s

end Sys2Proof.Machine
end

