-- ==== Sys2Proof/Machine/Format.lean ====
section
/-! DEFINITION. The BCH(15,5) format-information unit (spec 45_bch_format.md R140 to R144). -/

namespace Sys2Proof.Machine

/-- One step of the binary polynomial division: where bit `k` is set, exclusive or with the generator moved under it
(R141). -/
def bchStep (v : FormatWord) (k : Nat) : FormatWord := if v.getLsbD k then v ^^^ (bchGen <<< (k - 10)) else v

/-- The remainder of d · x^10 divided by 0x537, from bit 14 down to bit 10 (R141). -/
def bchRemainder (d : BitVec 5) : FormatWord := [14, 13, 12, 11, 10].foldl bchStep (d.setWidth 15 <<< 10)

/-- `bch_format(d)` (R141). -/
def bchFormat (d : BitVec 5) : FormatWord := ((d.setWidth 15 <<< 10) ||| bchRemainder d) ^^^ fmtXor

/-- `FMT.ENC d` (R144): the word is returned and not latched. -/
def execFmtEnc (d : Nat) (s : State) : Host.Outcome State Fault Refusal :=
  if d ≤ 31 then respond ((bchFormat (BitVec.ofNat 5 d)).setWidth 24) s else raise .range s

end Sys2Proof.Machine
end

