-- ==== Sys2Proof/Machine/Galois.lean ====
section
/-! DEFINITION. The GF(256) arithmetic unit (spec 43_gf256.md R110 to R116). -/

namespace Sys2Proof.Machine

/-- `xtime(v)`: multiplication by the generator, reduced by 0x11D (R110). -/
def xtime (v : Byte) : Byte := if v.getLsbD 7 then (v <<< 1) ^^^ 0x1D else v <<< 1

/-- `gf_pow_alpha(i)` = EXP[i mod 255] (R112). -/
def gfPowAlpha (i : Nat) : Byte := expTable (i % 255)

/-- `gf_mul(a, b)`: 0 for a zero factor, else EXP[(LOG[a] + LOG[b]) mod 255] (R113). -/
def gfMul (a b : Byte) : Byte :=
  match logTable a, logTable b with
  | some i, some j => expTable ((i + j) % 255)
  | _, _ => 0

/-- Step `k` of the reduction of a 15-bit product: exclusive or with 0x11D << (k - 8) where bit `k` is set (R113). -/
def reduceStep (r : BitVec 15) (k : Nat) : BitVec 15 := if r.getLsbD k then r ^^^ (0x11D#15 <<< (k - 8)) else r

/-- `clmul_mod(a, b)`, the shift-and-xor product R113 gives beside the tables: carry-less product, then reduction from
bit 14 down to bit 8. No command uses it; it says what the tables compute. -/
def clmulMod (a b : Byte) : Byte :=
  let product := [0, 1, 2, 3, 4, 5, 6, 7].foldl (fun r k => if b.getLsbD k then r ^^^ (a.setWidth 15 <<< k) else r) (0 : BitVec 15)
  ([14, 13, 12, 11, 10, 9, 8].foldl reduceStep product).setWidth 8

/-- `GF.EXP i` (R114): the index is taken modulo 255. -/
def execGfExp (i : Nat) (s : State) : Host.Outcome State Fault Refusal := respond ((gfPowAlpha i).setWidth 24) s

/-- `GF.LOG v` (R115): 0 has no logarithm and gives GF_DOMAIN. -/
def execGfLog (v : Byte) (s : State) : Host.Outcome State Fault Refusal :=
  match logTable v with
  | some i => respond (value i) s
  | none => raise .gfDomain s

/-- `GF.MUL x, y` (R116). -/
def execGfMul (x y : Byte) (s : State) : Host.Outcome State Fault Refusal := respond ((gfMul x y).setWidth 24) s

end Sys2Proof.Machine
end

