-- ==== Sys2Proof/Machine/Placement.lean ====
section
/-! DEFINITION. The QR module-placement and masking unit (spec 46_qr_placement.md R150 to R166). -/

namespace Sys2Proof.Machine

/-! ### Function patterns (R151 to R157) -/

/-- The cell lies in an 8 × 8 finder region, pattern and separator together (R151). -/
def inFinderRegion (c : Coord) : Bool :=
  corners.any fun (x0, y0, _, _) =>
    decide (x0 ≤ c.x.val ∧ c.x.val < x0 + 8 ∧ y0 ≤ c.y.val ∧ c.y.val < y0 + 8)

/-- The cell is a dark cell of a 7 × 7 finder pattern (R151, R152). -/
def finderDark (c : Coord) : Bool :=
  corners.any fun (_, _, px, py) =>
    decide (px ≤ c.x.val ∧ c.x.val < px + 7 ∧ py ≤ c.y.val ∧ c.y.val < py + 7) && finder (c.y.val - py) (c.x.val - px)

/-- The cell is a timing cell: (x, 6) for x in 8..12 or (6, y) for y in 8..12 (R153). -/
def onTiming (c : Coord) : Bool :=
  decide ((c.y.val = 6 ∧ 8 ≤ c.x.val ∧ c.x.val ≤ 12) ∨ (c.x.val = 6 ∧ 8 ≤ c.y.val ∧ c.y.val ≤ 12))

/-- A timing cell is dark where its running index is even; the other index is 6, so the sum tells (R153). -/
def timingDark (c : Coord) : Bool := onTiming c && decide ((c.x.val + c.y.val) % 2 = 0)

/-- The cell is in a format strip (R155). -/
def onStrip (c : Coord) : Bool := stripA.contains c || stripB.contains c

/-- The cell is a function module (R27, R161). -/
def isFunction (c : Coord) : Bool := inFinderRegion c || onTiming c || c == darkModule || onStrip c

/-- The cell is dark right after `QR.INIT` (R161). -/
def isDarkAtInit (c : Coord) : Bool := finderDark c || timingDark c || c == darkModule

/-- FUNC as `QR.INIT` draws it (R156). -/
def funcPattern : Plane := Plane.ofFn fun y x => isFunction ⟨x, y⟩

/-- MOD as `QR.INIT` draws it (R156). -/
def modPattern : Plane := Plane.ofFn fun y x => isDarkAtInit ⟨x, y⟩

/-! ### Data placement and masking (R159, R160) -/

/-- The rows of one column pair in scanning order: y from 20 down to 0, or from 0 up to 20 (R159). -/
def rowOrder (upward : Bool) : List (Fin 21) := if upward then (List.finRange 21).reverse else List.finRange 21

/-- The cells of one column pair that take a bit: the right-hand column before the left-hand one in each row, a cell with
FUNC = 1 passed over (R159). -/
def pairCells (func : Plane) (upward : Bool) (pair : Fin 21 × Fin 21) : List Coord :=
  ((rowOrder upward).flatMap fun y => [⟨pair.1, y⟩, ⟨pair.2, y⟩]).filter fun c => !func.get c

/-- The column pairs one after the other, the direction alternating (R159). -/
def scanPairs (func : Plane) (upward : Bool) (pairs : List (Fin 21 × Fin 21)) : List Coord :=
  match pairs with
  | [] => []
  | p :: rest => pairCells func upward p ++ scanPairs func (!upward) rest

/-- `data_order` (R159): the first pair is scanned upwards. -/
def dataOrder (func : Plane) : List Coord := scanPairs func true pairColumns

/-- `mask0(x, y)` (R160). -/
def mask0 (c : Coord) : Bool := decide ((c.x.val + c.y.val) % 2 = 0)

/-- The module writes of `QR.DATA`: bit n of the codewords, masked, at cell n of `data_order` (R162). -/
def dataWrites (func : Plane) (codewords : List Byte) : List (Coord × Bool) :=
  List.zipWith (fun c b => (c, b ^^ mask0 c)) (dataOrder func) (bytesBits codewords)

/-- `write_format(w)`: bit 14 - k at index k of both strips, unmasked (R163). -/
def formatWrites (w : FormatWord) : List (Coord × Bool) :=
  stripA.zip (bitsOf 15 w.toNat) ++ stripB.zip (bitsOf 15 w.toNat)

/-! ### Readback (R165, R166) -/

/-- `{FUNC, MOD}` of one module (R165). -/
def moduleValue (s : State) (c : Coord) : Nat := 2 * (s.func.get c).toNat + (s.mod.get c).toNat

/-- One row of a plane as a number, bit x from column x (R166). -/
def rowValue (p : Plane) (y : Fin 21) : Nat :=
  (List.finRange 21).foldl (fun v x => v ||| ((p.get ⟨x, y⟩).toNat <<< x.val)) 0

/-! ### Commands -/

/-- `QR.INIT` (R161): both planes whole and the stage, whatever they held. -/
def execQrInit (s : State) : Host.Outcome State Fault Refusal :=
  respond 0 (((s.withMod modPattern).withFunc funcPattern).withQrst stageInit)

/-- `QR.DATA` (R162): SEQ before `QR.INIT` or where the data is placed already. -/
def execQrData (s : State) : Host.Outcome State Fault Refusal :=
  if !s.initDone || s.dataDone then raise .seq s
  else respond 0 ((s.withMod (s.mod.putAll (dataWrites s.func (s.cwList Config.nCw)))).withQrst (setDataDone s.qrst))

/-- `QR.FMT imm15` (R164): SEQ before `QR.INIT` or where the format is written already. -/
def execQrFmt (imm15 : FormatWord) (s : State) : Host.Outcome State Fault Refusal :=
  if !s.initDone || s.fmtDone then raise .seq s
  else respond 0 ((s.withMod (s.mod.putAll (formatWrites imm15))).withQrst (setFmtDone s.qrst))

/-- `QR.GET y, x` (R165). -/
def execQrGet (y x : Nat) (s : State) : Host.Outcome State Fault Refusal :=
  if h : y < 21 ∧ x < 21 then respond (value (moduleValue s ⟨⟨x, h.2⟩, ⟨y, h.1⟩⟩)) s else raise .range s

/-- `QR.ROW y, sel` (R166): 0 selects MOD, 1 selects FUNC. -/
def execQrRow (y sel : Nat) (s : State) : Host.Outcome State Fault Refusal :=
  if h : y < 21 then
    match sel with
    | 0 => respond (value (rowValue s.mod ⟨y, h⟩)) s
    | 1 => respond (value (rowValue s.func ⟨y, h⟩)) s
    | _ => raise .range s
  else raise .range s

end Sys2Proof.Machine
end

