-- ==== Sys2Proof/Machine/ReedSolomon.lean ====
section
/-! DEFINITION. The Reed-Solomon unit (spec 44_reed_solomon.md R125 to R132). -/

namespace Sys2Proof.Machine

/-- One factor of the generator: `g(x) * x + g(x) * alpha^i`, coefficients highest power first (R126). -/
def timesRoot (g : List Byte) (i : Nat) : List Byte :=
  List.zipWith (fun up same => up ^^^ gfMul same (expTable i)) (g ++ [0]) (0 :: g)

/-- The generator polynomial as the product of (x - alpha^i) for i in 0..6, highest power first (R126). -/
def genProduct : List Byte := [0, 1, 2, 3, 4, 5, 6].foldl timesRoot [1]

/-- GEN[6], ..., GEN[0]: the generator less its leading 1, highest power first. -/
def genTail : List Byte := [6, 5, 4, 3, 2, 1, 0].map genTable

/-- One step of the division by the monic generator: feedback, shift towards index 0, subtract (R127). -/
def rsStep (rem : List Byte) (d : Byte) : List Byte :=
  let f := d ^^^ rem.headD 0
  List.zipWith (fun r g => r ^^^ gfMul g f) (rem.tail ++ [0]) genTail

/-- `rs_remainder(d)`: the 7 check codewords, the coefficient of x^6 first (R127). -/
def rsRemainder (d : List Byte) : List Byte := d.foldl rsStep (List.replicate Config.nEc 0)

/-- `rs_syndrome(c, i)` by Horner's rule (R129). -/
def rsSyndrome (c : List Byte) (i : Nat) : Byte := c.foldl (fun acc v => gfMul acc (expTable i) ^^^ v) 0

/-- `RS.GEN j` (R130). -/
def execRsGen (j : Nat) (s : State) : Host.Outcome State Fault Refusal :=
  if j ≤ 7 then respond ((genTable j).setWidth 24) s else raise .range s

/-- `RS.ENC` (R131): CW[19..25] become the remainder of CW[0..18]. -/
def execRsEnc (s : State) : Host.Outcome State Fault Refusal :=
  respond 0 (s.withBuf (s.buf.writeRange (cwBase + Config.nData) (rsRemainder (s.cwList Config.nData))))

/-- `RS.SYN i` (R132). -/
def execRsSyn (i : Nat) (s : State) : Host.Outcome State Fault Refusal :=
  if i ≤ 6 then respond ((rsSyndrome (s.cwList Config.nCw) i).setWidth 24) s else raise .range s

end Sys2Proof.Machine
end

