-- ==== Sys2Proof/Machine/System.lean ====
section
/-! DEFINITION. The system and buffer commands (spec 40_system_buffer.md R80 to R83). -/

namespace Sys2Proof.Machine

/-- `NOP` does nothing and answers OK (R80). -/
def execNop (s : State) : Host.Outcome State Fault Refusal := respond 0 s

/-- `BUF.WR addr, data` (R81): RANGE at an unmapped address, else the byte is stored. -/
def execBufWr (addr : Nat) (data : Byte) (s : State) : Host.Outcome State Fault Refusal :=
  if mapped addr then respond 0 (s.withBuf (s.buf.write addr data)) else raise .range s

/-- `BUF.RD addr` (R82): RANGE at an unmapped address, else the byte, zero-extended. -/
def execBufRd (addr : Nat) (s : State) : Host.Outcome State Fault Refusal :=
  if mapped addr then respond ((s.buf.read addr).setWidth 24) s else raise .range s

/-- The control and status registers, both read-only: index 0 is ID, index 1 is QRST with bits 23..3 zero (R23, R83). -/
def csrValue (idx : Nat) (s : State) : Option Value :=
  match idx with
  | 0 => some idValue
  | 1 => some (s.qrst.setWidth 24)
  | _ => none

/-- `CSR.RD idx` (R83): RANGE where there is no register. -/
def execCsrRd (idx : Nat) (s : State) : Host.Outcome State Fault Refusal :=
  match csrValue idx s with
  | some v => respond v s
  | none => raise .range s

end Sys2Proof.Machine
end

