-- ==== Sys2Proof/Machine/Dispatch.lean ====
section
/-! DEFINITION. One arm per command of spec/opcode_table.json, each one call of its meaning. -/

namespace Sys2Proof.Machine

def exec (i : Instr) (s : State) : Host.Outcome State Fault Refusal :=
  match i with
  | .nop => Sys2Proof.Machine.execNop s
  | .bufWr addr data => Sys2Proof.Machine.execBufWr addr data s
  | .bufRd addr => Sys2Proof.Machine.execBufRd addr s
  | .csrRd idx => Sys2Proof.Machine.execCsrRd idx s
  | .b32Enc off len => Sys2Proof.Machine.execB32Enc off len s
  | .b32Dec cnt => Sys2Proof.Machine.execB32Dec cnt s
  | .b32Sym v => Sys2Proof.Machine.execB32Sym v s
  | .b32Val ch => Sys2Proof.Machine.execB32Val ch s
  | .ck5 off len => Sys2Proof.Machine.execCk5 off len s
  | .gfExp n => Sys2Proof.Machine.execGfExp n s
  | .gfLog v => Sys2Proof.Machine.execGfLog v s
  | .gfMul x y => Sys2Proof.Machine.execGfMul x y s
  | .rsGen j => Sys2Proof.Machine.execRsGen j s
  | .rsEnc => Sys2Proof.Machine.execRsEnc s
  | .rsSyn n => Sys2Proof.Machine.execRsSyn n s
  | .fmtEnc d => Sys2Proof.Machine.execFmtEnc d s
  | .qrInit => Sys2Proof.Machine.execQrInit s
  | .qrData => Sys2Proof.Machine.execQrData s
  | .qrFmt imm15 => Sys2Proof.Machine.execQrFmt imm15 s
  | .qrGet y x => Sys2Proof.Machine.execQrGet y x s
  | .qrRow y sel => Sys2Proof.Machine.execQrRow y sel s

end Sys2Proof.Machine
end

