-- ==== Sys2Proof/Machine/Port.lean ====
section
/-! DEFINITION. The command port (spec 00_scope.md R3, 10_state.md R21, 30_encoding.md R65, R66): which command comes
next, what the block does with any word, and how the host offers one. -/

namespace Sys2Proof.Machine

/-- The command at the index of R21, if the host has offered one there. -/
def nextCommand (s : State) : Option Word32 := s.commands[s.pc]?

/-- What the block does with a command word: the decoded command's meaning, or ILLEGAL_CMD with no other change (R65,
R66). Decoding comes first, so a must-be-zero bit is ILLEGAL_CMD whatever the other fields hold (R213). -/
def perform (w : Word32) (s : State) : Host.Outcome State Fault Refusal :=
  match decode w with
  | .ok i => exec i s
  | .error _ => raise .illegalCmd s

/-- A list with `w` at index `n`; a list shorter than that is filled up with 0, the word of `NOP`. -/
def placeAt (l : List Word32) (n : Nat) (w : Word32) : List Word32 :=
  match l, n with
  | [], 0 => [w]
  | [], n + 1 => 0 :: placeAt [] n w
  | _ :: l, 0 => w :: l
  | c :: l, n + 1 => c :: placeAt l n w

/-- The host puts `w` where the block accepts its next command. -/
def State.offer (s : State) (w : Word32) : State := { s with commands := placeAt s.commands s.pc w }

end Sys2Proof.Machine
end

