-- ==== Sys2Proof/Machine/Step.lean ====
section
/-! DEFINITION. One step of the machine, and where the host places an instruction. All it does stands in
Machine/Port.lean. -/

namespace Sys2Proof.Machine

/-- One step: the block accepts the next command of the host's list, performs it and answers (R3). Where no command
waits, nothing changes (R217, assumption log 2). -/
def step (s : State) : Host.Outcome State Fault Refusal :=
  match nextCommand s with
  | some w => perform w s.tick
  | none => .next s

/-- The host's entry: the command word whose low `nbits` bits are `w`, other bits 0, as the next command
the block accepts. -/
def State.withFetchWord (s : State) (nbits w : Nat) : State := s.offer (BitVec.ofNat 32 (w % 2 ^ nbits))

end Sys2Proof.Machine
end

