-- ==== Sys2Proof/Machine/HostText.lean ====
section
/-! DEFINITION. The host procedures as pure functions (spec 47_host_procedures.md R180 to R186, R190, R191, R193). They are
neither state nor commands of the block (R2); no meaning in Dispatch.lean calls one. The parameters the spec leaves OPEN
(the dictionary, CHECK_CHAR_TOLERANT, isAlnum, scale, PATH_SYNTAX) are arguments. -/

namespace Sys2Proof.Machine

/-- A host string. -/
abbrev Text := List Char

/-- The failure reasons of R215, results of host procedures; none is a status of the block. -/
inductive Reason where
  | invalidFormat
  | unknownWords
  | invalidSuffix
  | checksumMismatch
  | unsupportedChar
  | textTooLong
  deriving DecidableEq, Repr

/-! ### Characters -/

/-- The character code the block holds for a character; it has none above 255 (N11). -/
def charCode (c : Char) : Option Byte := if c.toNat < 256 then some (BitVec.ofNat 8 c.toNat) else none

/-- The character of a code. -/
def codeChar (b : Byte) : Char := Char.ofNat b.toNat

/-- ASCII lower-casing: A..Z to a..z, every other character left alone (R183). -/
def lowerChar (c : Char) : Char := if 0x41 ≤ c.toNat ∧ c.toNat ≤ 0x5A then Char.ofNat (c.toNat + 0x20) else c

/-- ASCII upper-casing: a..z to A..Z only (R190). -/
def upperChar (c : Char) : Char := if 0x61 ≤ c.toNat ∧ c.toNat ≤ 0x7A then Char.ofNat (c.toNat - 0x20) else c

/-- The default of the OPEN parameter `isAlnum`: the 62 ASCII letters and digits (D15). -/
def asciiAlnumChar (c : Char) : Bool :=
  decide ((0x30 ≤ c.toNat ∧ c.toNat ≤ 0x39) ∨ (0x41 ≤ c.toNat ∧ c.toNat ≤ 0x5A) ∨ (0x61 ≤ c.toNat ∧ c.toNat ≤ 0x7A))

/-- A character of `[a-z0-9]`. -/
def lowerAlnumChar (c : Char) : Bool :=
  decide ((0x30 ≤ c.toNat ∧ c.toNat ≤ 0x39) ∨ (0x61 ≤ c.toNat ∧ c.toNat ≤ 0x7A))

/-! ### WordDictionary (R181) -/

/-- A dictionary word: exactly 5 characters of `[a-z0-9]`. -/
def wordShape (w : Text) : Bool := w.length == Config.wordLen && w.all lowerAlnumChar

/-- Exactly 256 words, no two alike, each of the right shape (R181, U13, U14). -/
def dictionaryOk (words : List Text) : Bool :=
  words.length == Config.wordCount && decide words.Nodup && words.all wordShape

/-- The OPEN parameter WORDS with the constraints of R181: a list that breaks one is no dictionary. -/
structure Dictionary where
  words : List Text
  ok : dictionaryOk words = true

/-- Loading at start-up: fatal for a list that breaks the contract, and no codec is made (R181, U13). -/
def loadDictionary (words : List Text) : Option Dictionary :=
  if h : dictionaryOk words = true then some ⟨words, h⟩ else none

/-- `wordAt(byte)` (R181). -/
def Dictionary.wordAt (d : Dictionary) (b : Byte) : Text := d.words.getD b.toNat []

/-- `indexOf(word)`: none is not-found (R181). -/
def Dictionary.indexOf (d : Dictionary) (w : Text) : Option Byte := (d.words.idxOf? w).map fun i => BitVec.ofNat 8 i

/-! ### IdentifierCodec (R180, R182 to R186) -/

/-- An identifier: exactly 7 raw bytes (R180). -/
abbrev Identifier := Vector Byte 7

/-- The parameters of the codec the spec leaves OPEN (D15, D22). -/
structure CodecOptions where
  /-- `CHECK_CHAR_TOLERANT` (R185 step 7). -/
  checkCharTolerant : Bool
  /-- `isAlnum` (R92, R183, U17). -/
  isAlnum : Char → Bool

/-- The options of the spec's vectors: tolerant, ASCII (D15, D22). -/
def CodecOptions.standard : CodecOptions := ⟨true, asciiAlnumChar⟩

/-- Leading and trailing white space removed (R183). -/
def trimText (t : Text) : Text := ((t.dropWhile Char.isWhitespace).reverse.dropWhile Char.isWhitespace).reverse

/-- `normalize(input)`: trim, lowercase, strip (R183). -/
def normalize (isAlnum : Char → Bool) (input : Text) : Text := ((trimText input).map lowerChar).filter isAlnum

/-- The canonical form from its parts: lower-cased, `w1-w2-suffix+check` (R182, R184). -/
def joinCode (w0 w1 suffix : Text) (check : Char) : Text :=
  (w0 ++ ['-'] ++ w1 ++ ['-'] ++ suffix ++ [check]).map lowerChar

/-- `IdentifierCodec.encode(id)`, total (R184). -/
def encodeId (d : Dictionary) (id : Identifier) : Text :=
  let suffix := (b32Encode (id.toList.drop 2)).take Config.suffixLen
  let check := alphabetCode (checksum5 id.toList).toNat
  joinCode (d.wordAt id[0]) (d.wordAt id[1]) (suffix.map codeChar) (codeChar check)

/-- What decoding a human code answers (R185). -/
structure Decoded where
  exchangeId : Identifier
  checksumPresent : Bool
  deriving DecidableEq, Repr

/-- The parts of a normalised code (R185 step 3). -/
structure CodeParts where
  word0 : Text
  word1 : Text
  suffix : Text
  check : Option Char
  deriving DecidableEq, Repr

/-- Steps 1 to 3 of R185: normalise, check the length, cut. -/
def splitCode (isAlnum : Char → Bool) (input : Text) : Except Reason CodeParts :=
  let t := normalize isAlnum input
  if t.length = 18 ∨ t.length = 19 then
    .ok ⟨t.take 5, (t.drop 5).take 5, (t.drop 10).take 8, t[18]?⟩
  else .error .invalidFormat

/-- Step 4 of R185: both words, as typed. -/
def lookUpWords (d : Dictionary) (p : CodeParts) : Except Reason (Byte × Byte) :=
  match d.indexOf p.word0, d.indexOf p.word1 with
  | some i0, some i1 => .ok (i0, i1)
  | _, _ => .error .unknownWords

/-- Step 5 of R185: exactly 5 bytes, or `invalid_suffix`. -/
def decodeSuffix (isAlnum : Char → Bool) (suffix : Text) : Except Reason (List Byte) :=
  match (suffix.mapM charCode).bind (b32Decode fun b => isAlnum (codeChar b)) with
  | some r => if r.length = 5 then .ok r else .error .invalidSuffix
  | none => .error .invalidSuffix

/-- The identifier of two word indices and five suffix bytes (R185 step 6). -/
def makeId (i0 i1 : Byte) (r : List Byte) : Identifier :=
  #v[i0, i1, r.getD 0 0, r.getD 1 0, r.getD 2 0, r.getD 3 0, r.getD 4 0]

/-- The checksum character's value: by `b32_value` in the tolerant reading, by the alphabet alone in the strict one (R185
step 7). -/
def checkValue (tolerant : Bool) (c : Char) : Option Nat :=
  (charCode c).bind fun b => if tolerant then b32Value b else alphabetIndex (upperCode b)

/-- Step 7 of R185 on the identifier of step 6. -/
def verifyCheck (tolerant : Bool) (check : Option Char) (id : Identifier) : Except Reason Decoded :=
  match check with
  | none => .ok ⟨id, false⟩
  | some c =>
    match checkValue tolerant c with
    | none => .error .invalidFormat
    | some v => if v = (checksum5 id.toList).toNat then .ok ⟨id, true⟩ else .error .checksumMismatch

/-- `IdentifierCodec.decode(input)`: the first failing step decides (R185). -/
def decodeId (o : CodecOptions) (d : Dictionary) (input : Text) : Except Reason Decoded :=
  match splitCode o.isAlnum input with
  | .error e => .error e
  | .ok p =>
    match lookUpWords d p with
    | .error e => .error e
    | .ok (i0, i1) =>
      match decodeSuffix o.isAlnum p.suffix with
      | .error e => .error e
      | .ok r => verifyCheck o.checkCharTolerant p.check (makeId i0 i1 r)

/-! ### AlphanumericPacker (R190) -/

/-- The 45-character alphabet in AW's order; a character's value is its position (R190, G11). -/
def packAlphabet : Text :=
  ['0', '1', '2', '3', '4', '5', '6', '7', '8', '9', 'A', 'B', 'C', 'D', 'E', 'F', 'G', 'H', 'I', 'J', 'K', 'L', 'M',
   'N', 'O', 'P', 'Q', 'R', 'S', 'T', 'U', 'V', 'W', 'X', 'Y', 'Z', ' ', '$', '%', '*', '+', '-', '.', '/', ':']

/-- `value(c)`; none for a character outside the alphabet. -/
def packValue (c : Char) : Option Nat := packAlphabet.idxOf? c

/-- 11 bits for each consecutive pair, 6 bits for a single trailing character (R190). -/
def packPairs : List Nat → List Bool
  | v0 :: v1 :: rest => bitsOf 11 (45 * v0 + v1) ++ packPairs rest
  | [v] => bitsOf 6 v
  | [] => []

/-- Mode indicator, character count and characters, before the terminator (R190). -/
def packBits (vs : List Nat) : List Bool := bitsOf 4 0b0010 ++ bitsOf 9 vs.length ++ packPairs vs

/-- The terminator, only as many zeros as fit, and the zeros to a byte boundary (R190). -/
def terminate (bits : List Bool) : List Bool :=
  let b := bits ++ List.replicate (min 4 (Config.dataBits - bits.length)) false
  b ++ List.replicate ((8 - b.length % 8) % 8) false

/-- The first `n` filler bytes: 0xEC and 0x11 alternating, 0xEC first (R190). -/
def fillers (n : Nat) : List Byte := (List.range n).map fun k => if k % 2 = 0 then 0xEC else 0x11

/-- `pack(text)`: exactly 19 codewords, or a reason (R190). -/
def pack (text : Text) : Except Reason (List Byte) :=
  match (text.map upperChar).mapM packValue with
  | none => .error .unsupportedChar
  | some vs =>
    let bits := packBits vs
    if bits.length > Config.dataBits then .error .textTooLong
    else
      let cw := bytesOfBits (terminate bits)
      .ok (cw ++ fillers (Config.nData - cw.length))

/-! ### The QR pipeline and the rendering (R191, R193) -/

/-- The whole symbol of 19 data codewords (R191 after `pack`). -/
def symbolOf (data : List Byte) : Plane :=
  (modPattern.putAll (dataWrites funcPattern (data ++ rsRemainder data))).putAll (formatWrites (bchFormat fmtDescL0))

/-- `qr_matrix(text)` (R191). -/
def qrMatrix (text : Text) : Except Reason Plane := (pack text).map symbolOf

/-- An axis-aligned filled square by two opposite corners (R193). -/
structure ModuleSquare (α : Type) where
  left : α
  top : α
  right : α
  bottom : α
  deriving DecidableEq, Repr

/-- The rendered symbol: the canvas side and the dark modules' squares (R193). -/
structure Rendering (α : Type) where
  canvas : α
  squares : List (ModuleSquare α)
  deriving DecidableEq, Repr

/-- The dark modules in row order, y then x ascending (R193). -/
def darkCells (m : Plane) : List Coord :=
  ((List.finRange 21).flatMap fun y => (List.finRange 21).map fun x => (⟨x, y⟩ : Coord)).filter m.get

/-- The square of the module in column x, row y at this scale (R193). -/
def squareOf {α : Type} [NatCast α] [Mul α] (scale : α) (c : Coord) : ModuleSquare α :=
  { left := ((c.x.val + Config.quiet : Nat) : α) * scale, top := ((c.y.val + Config.quiet : Nat) : α) * scale,
    right := ((c.x.val + Config.quiet + 1 : Nat) : α) * scale, bottom := ((c.y.val + Config.quiet + 1 : Nat) : α) * scale }

/-- The squares and the canvas of a finished symbol; `scale` is any positive number, so nothing is defined for another
(R193, U18). -/
def renderMatrix {α : Type} [NatCast α] [Mul α] [Zero α] [LT α] (m : Plane) (scale : { k : α // 0 < k }) : Rendering α :=
  { canvas := ((Config.qrSize + 2 * Config.quiet : Nat) : α) * scale.val
    squares := (darkCells m).map (squareOf scale.val) }

/-- `render(text, scale)` as squares (R193). -/
def render {α : Type} [NatCast α] [Mul α] [Zero α] [LT α] (text : Text) (scale : { k : α // 0 < k }) :
    Except Reason (Rendering α) :=
  (qrMatrix text).map fun m => renderMatrix m scale

/-- `render(text, scale)` as the text of a path, for the OPEN parameter PATH_SYNTAX (R193, U19). -/
def renderPath {α : Type} [NatCast α] [Mul α] [Zero α] [LT α] (pathText : Rendering α → Text) (text : Text)
    (scale : { k : α // 0 < k }) : Except Reason Text :=
  (render text scale).map pathText

end Sys2Proof.Machine
end

