-- ==== Sys2Proof/Machine/HostSequences.lean ====
section
/-! DEFINITION. The host procedures as command sequences on the block (spec 47_host_procedures.md R187, R188, R192): the
host offers a command, the block performs it, and the host reads the response before it offers the next (R3). -/

namespace Sys2Proof.Machine

/-- One command issued: the state after it, and its response word. -/
def issue (s : State) (i : Instr) : State × Word32 :=
  match step (s.offer (encode i)) with
  | .next t => (t, t.responses.getLastD 0)
  | .fault _ => (s, 0)
  | .refused _ => (s, 0)

/-- Commands whose responses the host does not use, one after the other. -/
def issueAll (s : State) (is : List Instr) : State :=
  match is with
  | [] => s
  | i :: rest => issueAll (issue s i).1 rest

/-- `BUF.WR base+i, bytes[i]` for each i. -/
def writeBytes (base : Nat) (bytes : List Byte) : List Instr :=
  match bytes with
  | [] => []
  | b :: rest => .bufWr base b :: writeBytes (base + 1) rest

/-- `BUF.RD base+i` for i in 0..n-1: the state after them and the values read. -/
def readBytes (s : State) (base n : Nat) : State × List Byte :=
  match n with
  | 0 => (s, [])
  | n + 1 =>
    let (s1, r) := issue s (.bufRd base)
    let (s2, bs) := readBytes s1 (base + 1) n
    (s2, (responseValue r).setWidth 8 :: bs)

/-- `encode` on the block (R187): the state after the sequence, and the human code. -/
def encodeOnBlock (d : Dictionary) (id : Identifier) (s : State) : State × Text :=
  let s1 := issueAll s (writeBytes bytesBase id.toList)
  let (s2, c) := issue s1 (.ck5 0 7)
  let (s3, ch) := issue s2 (.b32Sym (responseValue c).toNat)
  let (s4, _) := issue s3 (.b32Enc 2 5)
  let (s5, suffix) := readBytes s4 symsBase 8
  (s5, joinCode (d.wordAt id[0]) (d.wordAt id[1]) (suffix.map codeChar) (codeChar ((responseValue ch).setWidth 8)))

/-- Steps 5 and 6 of `decode` on the block (R188): the suffix's characters in, five bytes out, then the seven identifier bytes
laid down. None is `invalid_suffix`. -/
def suffixOnBlock (i0 i1 : Byte) (suffix : List Byte) (s : State) : State × Option Identifier :=
  let s1 := issueAll s (writeBytes symsBase suffix)
  let (s2, m) := issue s1 (.b32Dec 8)
  if m = responseWord .ok 5 then
    let (s3, r) := readBytes s2 bytesBase 5
    let id := makeId i0 i1 r
    (issueAll s3 (writeBytes bytesBase id.toList), some id)
  else (s2, none)

/-- Step 7 of `decode` on the block (R188): `CK5 0, 7`, then `B32.VAL chk` in the tolerant reading; in the strict one the
host looks the character up in the alphabet itself. -/
def checkOnBlock (tolerant : Bool) (check : Option Char) (id : Identifier) (s : State) : State × Except Reason Decoded :=
  let (s1, c) := issue s (.ck5 0 7)
  match check with
  | none => (s1, .ok ⟨id, false⟩)
  | some chk =>
    match charCode chk with
    | none => (s1, .error .invalidFormat)
    | some b =>
      if tolerant then
        let (s2, v) := issue s1 (.b32Val b)
        if responseStatus v = statusCode .invalidChar then (s2, .error .invalidFormat)
        else if responseValue v = responseValue c then (s2, .ok ⟨id, true⟩)
        else (s2, .error .checksumMismatch)
      else
        match alphabetIndex (upperCode b) with
        | none => (s1, .error .invalidFormat)
        | some v => if v = (responseValue c).toNat then (s1, .ok ⟨id, true⟩) else (s1, .error .checksumMismatch)

/-- `decode` on the block (R188): steps 1 to 4 on the host, the rest with commands. The suffix's characters are what
normalisation leaves, so each has a character code unless `isAlnum` is wider than the block's characters. -/
def decodeOnBlock (o : CodecOptions) (d : Dictionary) (input : Text) (s : State) : State × Except Reason Decoded :=
  match splitCode o.isAlnum input with
  | .error e => (s, .error e)
  | .ok p =>
    match lookUpWords d p with
    | .error e => (s, .error e)
    | .ok (i0, i1) =>
      match p.suffix.mapM charCode with
      | none => (s, .error .invalidSuffix)
      | some codes =>
        match suffixOnBlock i0 i1 codes s with
        | (s1, none) => (s1, .error .invalidSuffix)
        | (s1, some id) => checkOnBlock o.checkCharTolerant p.check id s1

/-- `QR.ROW y, 0` for y from `y` on, `n` rows: the state after them and the rows read. -/
def readRows (s : State) (y n : Nat) : State × List Value :=
  match n with
  | 0 => (s, [])
  | n + 1 =>
    let (s1, r) := issue s (.qrRow y 0)
    let (s2, rows) := readRows s1 (y + 1) n
    (s2, responseValue r :: rows)

/-- `qr_matrix` on the block (R192): the 21 rows of the symbol. Where `pack` fails the host issues nothing. -/
def qrMatrixOnBlock (text : Text) (s : State) : State × Except Reason (List Value) :=
  match pack text with
  | .error e => (s, .error e)
  | .ok cw =>
    let s1 := issueAll s (writeBytes cwBase cw)
    let (s2, _) := issue s1 .rsEnc
    let (s3, f) := issue s2 (.fmtEnc fmtDescL0.toNat)
    let s4 := issueAll s3 [.qrInit, .qrData, .qrFmt ((responseValue f).setWidth 15)]
    let (s5, rows) := readRows s4 0 21
    (s5, .ok rows)

end Sys2Proof.Machine
end

