-- ==== Sys2Proof/Safety.lean ====
section
/-! DEFINITION. The terms the claims use: what a command may leave changed, and which states the spec calls possible. -/

namespace Sys2Proof.Machine

/-! ### Frames -/

/-- `t` is `s` after a command that answered `w` and changed the buffer space at most. -/
def State.onlyBufChanged (s t : State) (w : Word32) : Prop :=
  t.mod = s.mod ∧ t.func = s.func ∧ t.qrst = s.qrst ∧ t.commands = s.commands ∧ t.pc = s.pc ∧
    t.responses = s.responses ++ [w]

/-- `t` is `s` after a command that answered `w` and changed the planes and the stage at most. -/
def State.onlySymbolChanged (s t : State) (w : Word32) : Prop :=
  t.buf = s.buf ∧ t.commands = s.commands ∧ t.pc = s.pc ∧ t.responses = s.responses ++ [w]

/-- The four mutable items of R20 are the same; the command port's bookkeeping may differ. -/
def State.sameBlock (s t : State) : Prop :=
  s.buf = t.buf ∧ s.mod = t.mod ∧ s.func = t.func ∧ s.qrst = t.qrst

/-! ### Which states are possible -/

/-- The five reachable stages (R28). -/
def State.stageLegal (s : State) : Prop :=
  s.qrst = 0b000 ∨ s.qrst = 0b001 ∨ s.qrst = 0b011 ∨ s.qrst = 0b101 ∨ s.qrst = 0b111

/-- FUNC is all 0 before the first `QR.INIT`, and exactly the plane of R156 from then on (R167 a). MOD is all 0 before the
first `QR.INIT` too: no other command can have written it. -/
def State.functionLegal (s : State) : Prop :=
  if s.initDone then s.func = funcPattern else s.func = Plane.blank ∧ s.mod = Plane.blank

/-- Once a symbol is started, the function cells that are not strip cells hold the colours of R156 (R167 b). -/
def State.patternsIntact (s : State) : Prop :=
  s.initDone = true → ∀ c : Coord, isFunction c = true → onStrip c = false → s.mod.get c = isDarkAtInit c

/-- The two strips hold identical bits (R163). -/
def State.stripsAgree (s : State) : Prop :=
  ∀ (k : Nat) (c d : Coord), stripA[k]? = some c → stripB[k]? = some d → s.mod.get c = s.mod.get d

/-- Before `QR.FMT` the strips are light (R155). -/
def State.stripsLight (s : State) : Prop :=
  s.fmtDone = false → ∀ c : Coord, onStrip c = true → s.mod.get c = false

/-- What holds of the symbol in every state a command sequence can reach (R28, R155, R163, R167). -/
structure State.symbolLegal (s : State) : Prop where
  stage : s.stageLegal
  function : s.functionLegal
  patterns : s.patternsIntact
  agree : s.stripsAgree
  light : s.stripsLight

/-- One response for every accepted command, and no command accepted that was not offered (R3, R21, R63). -/
def State.portLegal (s : State) : Prop := s.responses.length = s.pc ∧ s.pc ≤ s.commands.length

end Sys2Proof.Machine
end

