-- ==== Sys2Proof/Certificates/Slice0/Obligations.lean ====
section
/-! DEFINITION. The statements for the provers. Each docstring names the rule of spec/ it formalises. The helpers before
them write down, from the spec's own words, the forms the model does not use itself: the accumulator loops of the base32
rules, the scanning loop of the data order, and the status table. -/

namespace Sys2Proof.Claims

open Sys2Proof Sys2Proof.Machine

/-! ### The accumulator loops of R91 and R94 -/

/-- The working values of a base32 loop: `acc`, `nbits`, `out`. -/
structure Acc where
  acc : Nat
  nbits : Nat
  out : List Byte

/-- `while nbits >= 5` of R91; at most two turns are taken after a byte. -/
def drainSymbols : Nat → Acc → Acc
  | 0, s => s
  | fuel + 1, s =>
    if 5 ≤ s.nbits then
      drainSymbols fuel
        { acc := s.acc &&& ((1 <<< (s.nbits - 5)) - 1), nbits := s.nbits - 5,
          out := s.out ++ [alphabetCode ((s.acc >>> (s.nbits - 5)) &&& 0x1F)] }
    else s

/-- `b32_encode` as the pseudocode of R91 runs it. -/
def encodeLoop (bytes : List Byte) : List Byte :=
  let s := bytes.foldl (fun s b => drainSymbols 3 { s with acc := (s.acc <<< 8) ||| b.toNat, nbits := s.nbits + 8 }) ⟨0, 0, []⟩
  if 0 < s.nbits then s.out ++ [alphabetCode ((s.acc <<< (5 - s.nbits)) &&& 0x1F)] else s.out

/-- `b32_decode` as the pseudocode of R94 runs it. -/
def decodeLoop (isAlnum : Byte → Bool) : List Byte → Acc → Option (List Byte)
  | [], s => some s.out
  | ch :: rest, s =>
    if isAlnum ch then
      match b32Value ch with
      | none => none
      | some v =>
        let acc := (s.acc <<< 5) ||| v
        let nbits := s.nbits + 5
        if 8 ≤ nbits then
          decodeLoop isAlnum rest
            { acc := acc &&& ((1 <<< (nbits - 8)) - 1), nbits := nbits - 8,
              out := s.out ++ [BitVec.ofNat 8 ((acc >>> (nbits - 8)) &&& 0xFF)] }
        else decodeLoop isAlnum rest { s with acc := acc, nbits := nbits }
    else decodeLoop isAlnum rest s

/-! ### The fold of R105 with arithmetic shifts (R107) -/

/-- The fold of a hash held in a signed variable. -/
def foldSigned (hash : BitVec 32) : BitVec 5 :=
  let h1 := hash ^^^ hash.sshiftRight 16
  (h1 ^^^ h1.sshiftRight 8).setWidth 5

/-! ### The scanning loop of R159 -/

/-- The cells one turn of the loop appends for columns `right` and `right - 1`. -/
def turnCells (func : Plane) (right : Nat) (upward : Bool) : List Coord :=
  ((List.range 21).flatMap fun t =>
    let y := if upward then 20 - t else t
    [right, right - 1].map fun x => (⟨Fin.ofNat 21 x, Fin.ofNat 21 y⟩ : Coord)).filter fun c => !func.get c

/-- `while right >= 1`, with the timing column skipped as a whole; eleven turns are more than it takes. -/
def scanLoop (func : Plane) : Nat → Nat → Bool → List Coord
  | 0, _, _ => []
  | fuel + 1, right, upward =>
    if 1 ≤ right then
      let r := if right = 6 then 5 else right
      turnCells func r upward ++ scanLoop func fuel (r - 2) (!upward)
    else []

/-! ### The table of R214 -/

/-- The non-OK statuses a command can return. -/
def failures : Instr → List Status
  | .nop => []
  | .bufWr _ _ => [.range]
  | .bufRd _ => [.range]
  | .csrRd _ => [.range]
  | .b32Enc _ _ => [.range]
  | .b32Dec _ => [.range]
  | .b32Sym _ => [.range]
  | .b32Val _ => [.invalidChar]
  | .ck5 _ _ => [.range]
  | .gfExp _ => []
  | .gfLog _ => [.gfDomain]
  | .gfMul _ _ => []
  | .rsGen _ => [.range]
  | .rsEnc => []
  | .rsSyn _ => [.range]
  | .fmtEnc _ => [.range]
  | .qrInit => []
  | .qrData => [.seq]
  | .qrFmt _ => [.seq]
  | .qrGet _ _ => [.range]
  | .qrRow _ _ => [.range]

/-- The commands that write the buffer space (R45). -/
def writesBuf : Instr → Bool
  | .bufWr _ _ | .b32Enc _ _ | .b32Dec _ | .rsEnc => true
  | _ => false

/-- The commands that write a plane or the stage (R45). -/
def writesSymbol : Instr → Bool
  | .qrInit | .qrData | .qrFmt _ => true
  | _ => false

/-- The writing commands R46 calls repeatable. -/
def repeatable : Instr → Bool
  | .bufWr _ _ | .b32Enc _ _ | .b32Dec _ | .rsEnc | .qrInit => true
  | _ => false

/-- FUNC and MOD after `QR.INIT`, row by row as `QR.ROW` returns them (R156). -/
def initRows : List (Nat × Nat) :=
  [(0x1FE1FF, 0x1FC07F), (0x1FE1FF, 0x104041), (0x1FE1FF, 0x17405D), (0x1FE1FF, 0x17405D), (0x1FE1FF, 0x17405D),
   (0x1FE1FF, 0x104041), (0x1FFFFF, 0x1FD57F), (0x1FE1FF, 0x000000), (0x1FE1FF, 0x000040), (0x000040, 0x000000),
   (0x000040, 0x000040), (0x000040, 0x000000), (0x000040, 0x000040), (0x0001FF, 0x000100), (0x0001FF, 0x00007F),
   (0x0001FF, 0x000041), (0x0001FF, 0x00005D), (0x0001FF, 0x00005D), (0x0001FF, 0x00005D), (0x0001FF, 0x000041),
   (0x0001FF, 0x00007F)]

/-- The 441 module addresses (R47). -/
def allCells : List Coord := (List.finRange 21).flatMap fun y => (List.finRange 21).map fun x => ⟨x, y⟩

/-- The words of R142's table, descriptor 0 first. -/
def formatWordTable : List FormatWord :=
  [0x5412, 0x5125, 0x5E7C, 0x5B4B, 0x45F9, 0x40CE, 0x4F97, 0x4AA0, 0x77C4, 0x72F3, 0x7DAA, 0x789D, 0x662F, 0x6318, 0x6C41, 0x6976,
   0x1689, 0x13BE, 0x1CE7, 0x19D0, 0x0762, 0x0255, 0x0D0C, 0x083B, 0x355F, 0x3068, 0x3F31, 0x3A06, 0x24B4, 0x2183, 0x2EDA, 0x2BED]

/-- The number of bit positions in which two format words differ. -/
def wordDistance (u v : FormatWord) : Nat := ((List.range 15).filter fun k => (u ^^^ v).getLsbD k).length

end Sys2Proof.Claims

section

open Sys2Proof Sys2Proof.Machine Sys2Proof.Claims

/-! ## Decoding and encoding -/

/-- R61, R64, R65, R66: no bit of an encoding is dropped: decoding the word of a well-formed instruction gives it back, operands and all. -/
def Obligations.DecodeReadsBackEveryEncoding : Prop :=
  ∀ i : Instr, i.wf = true → decode (encode i) = .ok i

/-- R61, R64, R65: a word that decodes is the word of the instruction it decodes to, which is well formed; so no two words mean the
same command and no must-be-zero bit is ignored. -/
def Obligations.DecodedWordIsItsEncoding : Prop :=
  ∀ (w : Word32) (i : Instr), decode w = .ok i → i.wf = true ∧ encode i = w

/-- R65: every word matches exactly one row of R64 or none; the decoder answers the row's command in the first case and
rejects in the second. -/
def Obligations.EveryWordMatchesOneRowOrNone : Prop :=
  ∀ w : Word32,
    (∀ r ∈ opcodeTable, ∀ q ∈ opcodeTable, r.matches w = true → q.matches w = true → r = q) ∧
    (∀ i, decode w = .ok i → i.row ∈ opcodeTable ∧ i.row.matches w = true) ∧
    ((∃ e, decode w = .error e) ↔ ∀ r ∈ opcodeTable, r.matches w = false)

/-- R66: a word that matches no row is answered ILLEGAL_CMD with value 0; no state of the block changes and the block goes on to
the next command. -/
def Obligations.IllegalWordAnswersIllegalCmd : Prop :=
  ∀ (s : State) (w : Word32), s.commands[s.pc]? = some w → (∀ r ∈ opcodeTable, r.matches w = false) →
    step s = .next { s with pc := s.pc + 1, responses := s.responses ++ [0x10000000#32] }

/-- R3, R21, R65: when the word at the host list's index decodes to an instruction, the step is the instruction's meaning in the
state whose index has moved on by exactly 1. -/
def Obligations.StepRunsTheDecodedCommand : Prop :=
  ∀ (s : State) (w : Word32) (i : Instr), s.commands[s.pc]? = some w → decode w = .ok i →
    step s = exec i { s with pc := s.pc + 1 }

/-- THE MODEL'S CHOICE (assumption log 2): where the host has offered no further command, a step changes nothing. R217: the
block "acts only in answer to a command". -/
def Obligations.StepWithoutCommandChangesNothing : Prop :=
  ∀ s : State, s.commands[s.pc]? = none → step s = .next s

/-- R68, T60: command words the spec writes out, one or more of every unit, and three words it calls illegal. -/
def Obligations.SpecWordsDecode : Prop :=
  decode 0x32578300#32 = .ok (.gfMul 0x57 0x83) ∧ decode 0x620077C4#32 = .ok (.qrFmt 0x77C4) ∧
  decode 0x0120FF00#32 = .ok (.bufWr 0x20 0xFF) ∧ decode 0x41000000#32 = .ok .rsEnc ∧
  decode 0x10020500#32 = .ok (.b32Enc 2 5) ∧ decode 0x136C0000#32 = .ok (.b32Val 0x6C) ∧
  decode 0x20000700#32 = .ok (.ck5 0 7) ∧ decode 0x50080000#32 = .ok (.fmtEnc 8) ∧
  decode 0x630D0800#32 = .ok (.qrGet 13 8) ∧ decode 0x03010000#32 = .ok (.csrRd 1) ∧
  decode 0x00000001#32 = .error .mustBeZero ∧ decode 0x62008000#32 = .error .mustBeZero ∧
  decode 0x04000000#32 = .error .unknownOp

/-! ## System and buffer commands -/

/-- R80: `NOP` answers OK with value 0 and does nothing else. -/
def Obligations.NopAnswersOkAndChangesNothing : Prop :=
  encode .nop = 0x00000000#32 ∧ ∀ s : State, exec .nop s = .next (s.withResponse 0x00000000#32)

/-- R81: `BUF.WR` stores one byte at a mapped address and changes no other byte; at an unmapped one it answers RANGE. -/
def Obligations.BufWriteStoresOneByte : Prop :=
  ∀ (addr : Nat) (data : Byte) (s : State),
    (addr < 256 →
      encode (.bufWr addr data) = 0x01000000#32 ||| (BitVec.ofNat 32 addr <<< 16) ||| (data.setWidth 32 <<< 8)) ∧
    ((addr ≤ 0x19 ∨ (0x20 ≤ addr ∧ addr ≤ 0x33) ∨ (0x40 ≤ addr ∧ addr ≤ 0x5F)) →
      ∃ t, exec (.bufWr addr data) s = .next t ∧ s.onlyBufChanged t 0x00000000#32 ∧
        ∀ a, t.buf.read a = if a = addr then data else s.buf.read a) ∧
    (¬ (addr ≤ 0x19 ∨ (0x20 ≤ addr ∧ addr ≤ 0x33) ∨ (0x40 ≤ addr ∧ addr ≤ 0x5F)) →
      exec (.bufWr addr data) s = .next (s.withResponse 0x11000000#32))

/-- R82: `BUF.RD` answers the byte at a mapped address, zero-extended; at an unmapped one it answers RANGE. It writes
nothing. -/
def Obligations.BufReadAnswersTheByte : Prop :=
  ∀ (addr : Nat) (s : State),
    (addr < 256 → encode (.bufRd addr) = 0x02000000#32 ||| (BitVec.ofNat 32 addr <<< 16)) ∧
    ((addr ≤ 0x19 ∨ (0x20 ≤ addr ∧ addr ≤ 0x33) ∨ (0x40 ≤ addr ∧ addr ≤ 0x5F)) →
      exec (.bufRd addr) s = .next (s.withResponse ((s.buf.read addr).setWidth 32))) ∧
    (¬ (addr ≤ 0x19 ∨ (0x20 ≤ addr ∧ addr ≤ 0x33) ∨ (0x40 ≤ addr ∧ addr ≤ 0x5F)) →
      exec (.bufRd addr) s = .next (s.withResponse 0x11000000#32))

/-- R83: `CSR.RD` answers ID at index 0 and QRST at index 1, and RANGE at every other index. It writes nothing. -/
def Obligations.CsrReadAnswersIdAndStage : Prop :=
  ∀ s : State,
    (∀ idx, idx < 256 → encode (.csrRd idx) = 0x03000000#32 ||| (BitVec.ofNat 32 idx <<< 16)) ∧
    exec (.csrRd 0) s = .next (s.withResponse 0x00415701#32) ∧
    exec (.csrRd 1) s = .next (s.withResponse (s.qrst.setWidth 32)) ∧
    ∀ idx, 2 ≤ idx → exec (.csrRd idx) s = .next (s.withResponse 0x11000000#32)

/-! ## Base32 -/

/-- R91, R95: `B32.ENC` writes ceil(8·len/5) symbols: symbol i is the alphabet's symbol of bits 5i to 5i+4 of the bytes' bit string,
most significant first, zero-padded on the right. No other byte changes. A range beyond BYTES answers RANGE. -/
def Obligations.Base32EncodeWritesTheSymbols : Prop :=
  ∀ (off len : Nat) (s : State),
    (off < 256 → len < 256 →
      encode (.b32Enc off len) = 0x10000000#32 ||| (BitVec.ofNat 32 off <<< 16) ||| (BitVec.ofNat 32 len <<< 8)) ∧
    (off + len ≤ 20 →
      ∃ t, exec (.b32Enc off len) s = .next t ∧ s.onlyBufChanged t (BitVec.ofNat 32 ((8 * len + 4) / 5)) ∧
        (∀ i < (8 * len + 4) / 5, ∃ v < 32, t.syms i = alphabetCode v ∧
          ∀ j < 5, v.testBit (4 - j) =
            if 5 * i + j < 8 * len then (s.bytes (off + (5 * i + j) / 8)).getLsbD (7 - (5 * i + j) % 8) else false) ∧
        ∀ a, ¬ (0x40 ≤ a ∧ a < 0x40 + (8 * len + 4) / 5) → t.buf.read a = s.buf.read a) ∧
    (20 < off + len → exec (.b32Enc off len) s = .next (s.withResponse 0x11000000#32))

/-- R94, R96: `B32.DEC` writes floor(5·q/8) bytes, q the alphanumeric characters among the first cnt of SYMS: bit 8i+j of the
bytes' bit string is bit 8i+j of the characters' values' bit string. No character makes it fail and no other byte changes. More
than 32 characters answer RANGE. -/
def Obligations.Base32DecodeWritesTheBytes : Prop :=
  ∀ (cnt : Nat) (s : State),
    (cnt < 256 → encode (.b32Dec cnt) = 0x11000000#32 ||| (BitVec.ofNat 32 cnt <<< 16)) ∧
    (cnt ≤ 32 →
      let kept := ((List.range cnt).map s.syms).filter asciiAlnum
      let m := 5 * kept.length / 8
      ∃ t, exec (.b32Dec cnt) s = .next t ∧ s.onlyBufChanged t (BitVec.ofNat 32 m) ∧
        (∀ i < m, ∀ j < 8, ∃ v, b32Value (kept.getD ((8 * i + j) / 5) 0) = some v ∧
          (t.bytes i).getLsbD (7 - j) = v.testBit (4 - (8 * i + j) % 5)) ∧
        ∀ a, ¬ (0x20 ≤ a ∧ a < 0x20 + m) → t.buf.read a = s.buf.read a) ∧
    (32 < cnt → exec (.b32Dec cnt) s = .next (s.withResponse 0x11000000#32))

/-- R90, R97: `B32.SYM` answers the code of the v-th symbol of 0123456789ABCDEFGHJKMNPQRSTVWXYZ, and RANGE above 31. It writes
nothing. -/
def Obligations.Base32SymbolIsTheAlphabet : Prop :=
  ∀ (v : Nat) (s : State),
    (v < 256 → encode (.b32Sym v) = 0x12000000#32 ||| (BitVec.ofNat 32 v <<< 16)) ∧
    exec (.b32Sym v) s = .next (s.withResponse
      (if v < 10 then BitVec.ofNat 32 (0x30 + v)
       else if v < 18 then BitVec.ofNat 32 (0x41 + (v - 10))
       else if v < 20 then BitVec.ofNat 32 (0x4A + (v - 18))
       else if v < 22 then BitVec.ofNat 32 (0x4D + (v - 20))
       else if v < 27 then BitVec.ofNat 32 (0x50 + (v - 22))
       else if v < 32 then BitVec.ofNat 32 (0x56 + (v - 27))
       else 0x11000000#32))

/-- R93, R98: `B32.VAL` answers v for the symbol of v in either case, 0 for O and o, 1 for I, i, L and l, 27 for U and u, and
INVALID_CHAR for each of the 194 codes that are no letter and no digit. It writes nothing. -/
def Obligations.Base32ValueIsTolerant : Prop :=
  ∀ (ch : Byte) (s : State),
    encode (.b32Val ch) = 0x13000000#32 ||| (ch.setWidth 32 <<< 16) ∧
    (∀ v < 32, (ch = alphabetCode v ∨ (10 ≤ v ∧ ch = alphabetCode v + 0x20)) →
      exec (.b32Val ch) s = .next (s.withResponse (BitVec.ofNat 32 v))) ∧
    (ch = 0x4F ∨ ch = 0x6F → exec (.b32Val ch) s = .next (s.withResponse 0x00000000#32)) ∧
    (ch = 0x49 ∨ ch = 0x69 ∨ ch = 0x4C ∨ ch = 0x6C → exec (.b32Val ch) s = .next (s.withResponse 0x00000001#32)) ∧
    (ch = 0x55 ∨ ch = 0x75 → exec (.b32Val ch) s = .next (s.withResponse 0x0000001B#32)) ∧
    (¬ ((0x30 ≤ ch.toNat ∧ ch.toNat ≤ 0x39) ∨ (0x41 ≤ ch.toNat ∧ ch.toNat ≤ 0x5A) ∨ (0x61 ≤ ch.toNat ∧ ch.toNat ≤ 0x7A)) →
      exec (.b32Val ch) s = .next (s.withResponse 0x01000000#32))

/-- R99: decoding what was encoded gives the bytes back; k symbols carry n bytes with k = ceil(8n/5) and floor(5k/8) = n. -/
def Obligations.Base32RoundTrip : Prop :=
  ∀ bytes : List Byte,
    b32Decode asciiAlnum (b32Encode bytes) = some bytes ∧
    (b32Encode bytes).length = (8 * bytes.length + 4) / 5 ∧
    5 * (b32Encode bytes).length / 8 = bytes.length

/-- R99 on the port: after `B32.ENC off, len` answered k, `B32.DEC k` answers len and BYTES[0..len-1] are the old
BYTES[off..off+len-1]. -/
def Obligations.Base32RoundTripOnThePort : Prop :=
  ∀ (off len : Nat) (s : State), off + len ≤ 20 →
    ∃ t u, exec (.b32Enc off len) s = .next t ∧ exec (.b32Dec ((8 * len + 4) / 5)) t = .next u ∧
      u.responses = s.responses ++ [BitVec.ofNat 32 ((8 * len + 4) / 5), BitVec.ofNat 32 len] ∧
      ∀ i < len, u.bytes i = s.bytes (off + i)

/-- R100: the result of decoding does not change when a letter changes case, when a character that is not alphanumeric is
inserted or removed, or when 0, 1 or V is replaced by a character confusable with it. -/
def Obligations.Base32DecodeTolerance : Prop :=
  ∀ pre post : List Byte,
    (∀ ch : Byte, asciiAlnum ch = false → b32Decode asciiAlnum (pre ++ ch :: post) = b32Decode asciiAlnum (pre ++ post)) ∧
    (∀ ch : Byte, 0x41 ≤ ch.toNat → ch.toNat ≤ 0x5A →
      b32Decode asciiAlnum (pre ++ (ch + 0x20) :: post) = b32Decode asciiAlnum (pre ++ ch :: post)) ∧
    (∀ p ∈ [(0x30, 0x4F), (0x30, 0x6F), (0x31, 0x49), (0x31, 0x69), (0x31, 0x4C), (0x31, 0x6C), (0x56, 0x55), (0x56, 0x75)],
      b32Decode asciiAlnum (pre ++ BitVec.ofNat 8 p.2 :: post) = b32Decode asciiAlnum (pre ++ BitVec.ofNat 8 p.1 :: post))

/-- R91: the bit-string definition of `b32_encode` and its accumulator loop agree on every byte sequence. -/
def Obligations.Base32EncodeLoopAgrees : Prop :=
  ∀ bytes : List Byte, encodeLoop bytes = b32Encode bytes

/-- R94: the bit-string definition of `b32_decode` and its accumulator loop agree on every character sequence, for every
predicate of what is alphanumeric; they fail together. -/
def Obligations.Base32DecodeLoopAgrees : Prop :=
  ∀ (isAlnum : Byte → Bool) (chars : List Byte), decodeLoop isAlnum chars ⟨0, 0, []⟩ = b32Decode isAlnum chars

/-! ## Checksum -/

/-- R106: `CK5` answers the checksum of the bytes named, and RANGE for a range beyond BYTES. It writes nothing. -/
def Obligations.Ck5AnswersTheChecksum : Prop :=
  ∀ (off len : Nat) (s : State),
    (off < 256 → len < 256 →
      encode (.ck5 off len) = 0x20000000#32 ||| (BitVec.ofNat 32 off <<< 16) ||| (BitVec.ofNat 32 len <<< 8)) ∧
    (off + len ≤ 20 →
      exec (.ck5 off len) s =
        .next (s.withResponse ((checksum5 ((List.range len).map fun i => s.bytes (off + i))).setWidth 32))) ∧
    (20 < off + len → exec (.ck5 off len) s = .next (s.withResponse 0x11000000#32))

/-- R107: the checksum is four 5-bit fields of the FNV-1a hash, exclusive-ored; arithmetic shifts in the place of the logical ones
differ above bit 15 of the first shift only and fold to the same value. -/
def Obligations.ChecksumClosedForm : Prop :=
  (∀ bytes : List Byte,
    let h : BitVec 32 := bytes.foldl (fun h b => (h ^^^ b.setWidth 32) * 0x01000193#32) 0x811C9DC5#32
    checksum5 bytes = h.extractLsb' 0 5 ^^^ h.extractLsb' 8 5 ^^^ h.extractLsb' 16 5 ^^^ h.extractLsb' 24 5) ∧
  (∀ (h : BitVec 32) (i : Nat), i < 16 → (h.sshiftRight 16).getLsbD i = (h >>> 16).getLsbD i) ∧
  ∀ h : BitVec 32, foldSigned h = foldHash h

/-! ## GF(256) -/

/-- R110, R111: EXP is the powers of the generator, its 255 entries are all different, the 255th power is 1 again, and LOG is
its inverse on exactly the non-zero bytes. -/
def Obligations.ExpAndLogTables : Prop :=
  (∀ i < 255, expTable i = Nat.iterate xtime i 1) ∧
  (∀ i < 255, ∀ j < 255, expTable i = expTable j → i = j) ∧
  xtime (expTable 254) = 1 ∧
  (∀ i < 255, logTable (expTable i) = some i) ∧
  logTable 0 = none ∧
  ∀ v : Byte, v ≠ 0 → ∃ i < 255, logTable v = some i ∧ expTable i = v

/-- R110, R114: `GF.EXP i` answers the generator's power i mod 255, by doubling and reducing. It writes nothing. -/
def Obligations.GfExpAnswersThePower : Prop :=
  ∀ (i : Nat) (s : State),
    (i < 256 → encode (.gfExp i) = 0x30000000#32 ||| (BitVec.ofNat 32 i <<< 16)) ∧
    exec (.gfExp i) s = .next (s.withResponse ((Nat.iterate xtime (i % 255) 1).setWidth 32))

/-- R115: `GF.LOG v` answers the one i in 0..254 with alpha^i = v, and GF_DOMAIN for 0. It writes nothing. -/
def Obligations.GfLogAnswersTheExponent : Prop :=
  ∀ (v : Byte) (s : State),
    encode (.gfLog v) = 0x31000000#32 ||| (v.setWidth 32 <<< 16) ∧
    (v ≠ 0 → ∃ i < 255, Nat.iterate xtime i 1 = v ∧ exec (.gfLog v) s = .next (s.withResponse (BitVec.ofNat 32 i))) ∧
    (v = 0 → exec (.gfLog v) s = .next (s.withResponse 0x02000000#32))

/-- R113, R116: `GF.MUL` answers the carry-less product reduced by 0x11D, for all operands, zero among them. It writes
nothing. -/
def Obligations.GfMulAnswersTheFieldProduct : Prop :=
  ∀ (x y : Byte) (s : State),
    encode (.gfMul x y) = 0x32000000#32 ||| (x.setWidth 32 <<< 16) ||| (y.setWidth 32 <<< 8) ∧
    exec (.gfMul x y) s = .next (s.withResponse ((clmulMod x y).setWidth 32))

/-- R117: GF(256) with exclusive or and `gf_mul` is a field. -/
def Obligations.Gf256IsAField : Prop :=
  (∀ a b c : Byte, (a ^^^ b) ^^^ c = a ^^^ (b ^^^ c) ∧ a ^^^ b = b ^^^ a ∧ a ^^^ 0 = a ∧ a ^^^ a = 0) ∧
  (∀ a b c : Byte, gfMul (gfMul a b) c = gfMul a (gfMul b c)) ∧
  (∀ a b : Byte, gfMul a b = gfMul b a ∧ gfMul a 1 = a) ∧
  (∀ a b c : Byte, gfMul a (b ^^^ c) = gfMul a b ^^^ gfMul a c) ∧
  ∀ v : Byte, v ≠ 0 → ∃ i, logTable v = some i ∧ gfMul v (expTable ((255 - i) % 255)) = 1

/-! ## Reed-Solomon -/

/-- R126: the generator's table is the product of its seven linear factors; the partial products, the logarithms of the
coefficients and the constant term are as the rule prints them. -/
def Obligations.GeneratorIsTheProductOfItsRoots : Prop :=
  (List.range 8).map (fun n => (List.range n).foldl timesRoot [1]) =
    [[0x01], [0x01, 0x01], [0x01, 0x03, 0x02], [0x01, 0x07, 0x0E, 0x08], [0x01, 0x0F, 0x36, 0x78, 0x40],
     [0x01, 0x1F, 0xC6, 0x3F, 0x93, 0x74], [0x01, 0x3F, 0x01, 0xDA, 0x20, 0xE3, 0x26],
     [0x01, 0x7F, 0x7A, 0x9A, 0xA4, 0x0B, 0x44, 0x75]] ∧
  genProduct = (List.range 7).foldl timesRoot [1] ∧
  (∀ j < 8, genTable j = genProduct.getD (7 - j) 0) ∧
  genTable 0 = expTable 21 ∧
  (List.range 8).map (fun j => logTable (genTable (7 - j))) =
    [some 0, some 87, some 229, some 146, some 149, some 238, some 102, some 21]

/-- R130: `RS.GEN j` answers the generator's coefficient of x^j, and RANGE above 7. It writes nothing. -/
def Obligations.RsGenAnswersTheCoefficient : Prop :=
  ∀ (j : Nat) (s : State),
    (j < 256 → encode (.rsGen j) = 0x40000000#32 ||| (BitVec.ofNat 32 j <<< 16)) ∧
    (j ≤ 7 → exec (.rsGen j) s = .next (s.withResponse ((genProduct.getD (7 - j) 0).setWidth 32))) ∧
    (7 < j → exec (.rsGen j) s = .next (s.withResponse 0x11000000#32))

/-- R131: `RS.ENC` stores the remainder of CW[0..18] at CW[19..25] and changes no other byte. -/
def Obligations.RsEncStoresTheRemainder : Prop :=
  encode .rsEnc = 0x41000000#32 ∧
  ∀ s : State, ∃ t, exec .rsEnc s = .next t ∧ s.onlyBufChanged t 0x00000000#32 ∧
    (∀ j < 7, t.cw (19 + j) = (rsRemainder ((List.range 19).map s.cw)).getD j 0) ∧
    ∀ a, ¬ (0x13 ≤ a ∧ a ≤ 0x19) → t.buf.read a = s.buf.read a

/-- R129, R132: `RS.SYN i` answers the sum of c[j]·alpha^(i·(25-j)) over the 26 codewords, and RANGE above 6. It writes
nothing. -/
def Obligations.RsSynAnswersTheSyndrome : Prop :=
  ∀ (i : Nat) (s : State),
    (i < 256 → encode (.rsSyn i) = 0x42000000#32 ||| (BitVec.ofNat 32 i <<< 16)) ∧
    (i ≤ 6 →
      exec (.rsSyn i) s = .next (s.withResponse
        (((List.range 26).foldl (fun acc j => acc ^^^ gfMul (s.cw j) (gfPowAlpha (i * (25 - j)))) (0 : Byte)).setWidth 32))) ∧
    (6 < i → exec (.rsSyn i) s = .next (s.withResponse 0x11000000#32))

/-- R128: the data stay and the 26 codewords are a multiple of the generator: after `RS.ENC` every syndrome is 0. -/
def Obligations.EncodedCodewordHasZeroSyndromes : Prop :=
  ∀ s : State, ∃ t, exec .rsEnc s = .next t ∧ (∀ j < 19, t.cw j = s.cw j) ∧
    (∀ j < 7, t.cw (19 + j) = (rsRemainder ((List.range 19).map s.cw)).getD j 0) ∧
    ∀ i ≤ 6, exec (.rsSyn i) t = .next (t.withResponse 0x00000000#32)

/-- R131, corner cases: the check codewords of the exclusive or of two data blocks are the exclusive or of their check
codewords. -/
def Obligations.RemainderIsLinear : Prop :=
  ∀ d e : List Byte, d.length = e.length →
    rsRemainder (List.zipWith (· ^^^ ·) d e) = List.zipWith (· ^^^ ·) (rsRemainder d) (rsRemainder e)

/-! ## Format information -/

/-- R141, R144: `FMT.ENC d` answers a word whose unmasked value starts with d and is a multiple of 0x537 over GF(2), and RANGE
above 31. It writes nothing. -/
def Obligations.FmtEncAnswersTheBchWord : Prop :=
  ∀ (d : Nat) (s : State),
    (d < 256 → encode (.fmtEnc d) = 0x50000000#32 ||| (BitVec.ofNat 32 d <<< 16)) ∧
    (d ≤ 31 → ∃ w : FormatWord, exec (.fmtEnc d) s = .next (s.withResponse (w.setWidth 32)) ∧
      ((w ^^^ 0x5412) >>> 10).toNat = d ∧
      ∃ q : BitVec 5, w ^^^ 0x5412 =
        [0, 1, 2, 3, 4].foldl (fun r k => if q.getLsbD k then r ^^^ (0x537#15 <<< k) else r) 0) ∧
    (31 < d → exec (.fmtEnc d) s = .next (s.withResponse 0x11000000#32))

/-- R142: the 32 format words are those of the table; any two differ in at least 7 bit positions, and each, unmasked, is a
multiple of 0x537 over GF(2). -/
def Obligations.FormatWordsFormTheTable : Prop :=
  (List.range 32).map (fun d => bchFormat (BitVec.ofNat 5 d)) = formatWordTable ∧
  (∀ d e : BitVec 5, d ≠ e → 7 ≤ wordDistance (bchFormat d) (bchFormat e)) ∧
  ∀ d : BitVec 5, ∃ q : BitVec 5, bchFormat d ^^^ 0x5412 =
    [0, 1, 2, 3, 4].foldl (fun r k => if q.getLsbD k then r ^^^ (0x537#15 <<< k) else r) 0

/-! ## Module placement -/

/-- R156, R161: `QR.INIT` leaves both planes as drawn, whatever they held, and the stage at 0b001; BUF is not touched. -/
def Obligations.QrInitDrawsTheFunctionPatterns : Prop :=
  encode .qrInit = 0x60000000#32 ∧
  ∀ s : State, ∃ t, exec .qrInit s = .next t ∧ s.onlySymbolChanged t 0x00000000#32 ∧ t.qrst = 0b001 ∧
    ∀ y : Fin 21, initRows[y.val]? = some (rowValue t.func y, rowValue t.mod y)

/-- R157, R158: 233 function modules, 106 of all modules dark after `QR.INIT`, every dark one a function module, and 208 = 26 · 8
modules for data. -/
def Obligations.FunctionModuleCounts : Prop :=
  allCells.length = 441 ∧ (allCells.filter isFunction).length = 233 ∧ (allCells.filter isDarkAtInit).length = 106 ∧
  (allCells.filter fun c => !isFunction c).length = 8 * 26 ∧
  (allCells.filter fun c => isDarkAtInit c && !isFunction c) = [] ∧
  (stripA ++ stripB).Nodup ∧ (stripA ++ stripB).length = 30 ∧ (stripA ++ stripB).all isFunction

/-- R159: the scanning loop over column pairs gives `data_order` for every classification; for the one `QR.INIT` draws it lists
each of the 208 non-function modules once. -/
def Obligations.DataOrderIsTheColumnScan : Prop :=
  (∀ func : Plane, scanLoop func 11 20 true = dataOrder func) ∧
  (dataOrder funcPattern).length = 208 ∧ (dataOrder funcPattern).Nodup ∧
  ∀ c, c ∈ dataOrder funcPattern ↔ isFunction c = false

/-- R162: `QR.DATA` puts bit n of the 26 codewords, masked, into cell n of the data order and changes no function module; it
answers SEQ before `QR.INIT` and where the data is placed already. The premise on FUNC holds in every state a command
sequence reaches (StepKeepsSymbolLegal). -/
def Obligations.QrDataPlacesTheMaskedBits : Prop :=
  encode .qrData = 0x61000000#32 ∧
  ∀ s : State,
    (s.qrst.getLsbD 0 = true → s.qrst.getLsbD 1 = false → s.func = funcPattern →
      ∃ t, exec .qrData s = .next t ∧ s.onlySymbolChanged t 0x00000000#32 ∧ t.func = s.func ∧ t.qrst = s.qrst ||| 0b010 ∧
        (∀ n c, (dataOrder funcPattern)[n]? = some c →
          t.mod.get c = ((s.cw (n / 8)).getLsbD (7 - n % 8) ^^ decide ((c.x.val + c.y.val) % 2 = 0))) ∧
        ∀ c, isFunction c = true → t.mod.get c = s.mod.get c) ∧
    (s.qrst.getLsbD 0 = false ∨ s.qrst.getLsbD 1 = true → exec .qrData s = .next (s.withResponse 0x12000000#32))

/-- R163, R164: `QR.FMT` puts bit 14 - k of the word at index k of both strips and changes no other module; it answers SEQ before
`QR.INIT` and where the format is written already. -/
def Obligations.QrFmtWritesBothStrips : Prop :=
  ∀ (imm15 : FormatWord) (s : State),
    encode (.qrFmt imm15) = 0x62000000#32 ||| imm15.setWidth 32 ∧
    (s.qrst.getLsbD 0 = true → s.qrst.getLsbD 2 = false →
      ∃ t, exec (.qrFmt imm15) s = .next t ∧ s.onlySymbolChanged t 0x00000000#32 ∧ t.func = s.func ∧ t.qrst = s.qrst ||| 0b100 ∧
        (∀ k c, stripA[k]? = some c → t.mod.get c = imm15.getLsbD (14 - k)) ∧
        (∀ k c, stripB[k]? = some c → t.mod.get c = imm15.getLsbD (14 - k)) ∧
        ∀ c, c ∉ stripA → c ∉ stripB → t.mod.get c = s.mod.get c) ∧
    (s.qrst.getLsbD 0 = false ∨ s.qrst.getLsbD 2 = true → exec (.qrFmt imm15) s = .next (s.withResponse 0x12000000#32))

/-- R165: `QR.GET y, x` answers FUNC in bit 1 and MOD in bit 0 of the module in row y, column x, and RANGE outside the grid. It
writes nothing. -/
def Obligations.QrGetAnswersOneModule : Prop :=
  ∀ s : State,
    (∀ y x, y < 256 → x < 256 →
      encode (.qrGet y x) = 0x63000000#32 ||| (BitVec.ofNat 32 y <<< 16) ||| (BitVec.ofNat 32 x <<< 8)) ∧
    (∀ y x : Fin 21, ∃ w, exec (.qrGet y.val x.val) s = .next (s.withResponse w) ∧
      w.getLsbD 0 = s.mod.get ⟨x, y⟩ ∧ w.getLsbD 1 = s.func.get ⟨x, y⟩ ∧ ∀ k, 2 ≤ k → w.getLsbD k = false) ∧
    ∀ y x, 20 < y ∨ 20 < x → exec (.qrGet y x) s = .next (s.withResponse 0x11000000#32)

/-- R166: `QR.ROW y, sel` answers the row's 21 modules, column x in bit x, of MOD for 0 and of FUNC for 1, and RANGE for another
plane or a row outside the grid. It writes nothing. -/
def Obligations.QrRowAnswersOneRow : Prop :=
  ∀ s : State,
    (∀ y sel, y < 256 → sel < 256 →
      encode (.qrRow y sel) = 0x64000000#32 ||| (BitVec.ofNat 32 y <<< 16) ||| (BitVec.ofNat 32 sel <<< 8)) ∧
    (∀ y : Fin 21, ∃ w, exec (.qrRow y.val 0) s = .next (s.withResponse w) ∧
      (∀ x : Fin 21, w.getLsbD x.val = s.mod.get ⟨x, y⟩) ∧ ∀ k, 21 ≤ k → w.getLsbD k = false) ∧
    (∀ y : Fin 21, ∃ w, exec (.qrRow y.val 1) s = .next (s.withResponse w) ∧
      (∀ x : Fin 21, w.getLsbD x.val = s.func.get ⟨x, y⟩) ∧ ∀ k, 21 ≤ k → w.getLsbD k = false) ∧
    ∀ y sel, 20 < y ∨ 1 < sel → exec (.qrRow y sel) s = .next (s.withResponse 0x11000000#32)

/-- R167 (d): a complete symbol changes through `QR.INIT` only. -/
def Obligations.CompleteSymbolChangesOnlyThroughInit : Prop :=
  ∀ (i : Instr) (s t : State), s.qrst = 0b111 → i ≠ .qrInit → exec i s = .next t →
    t.mod = s.mod ∧ t.func = s.func ∧ t.qrst = s.qrst

/-! ## The whole machine -/

/-- R66, R237, R241: every command has a defined response in every state: no step faults, none is refused. -/
def Obligations.EveryStepAnswers : Prop :=
  ∀ s : State, ∃ t, step s = .next t

/-- R63, R210: every command gives exactly one response; its status is one of the six, and its value is 0 where the status is not
OK. -/
def Obligations.EachCommandGivesOneResponse : Prop :=
  ∀ (i : Instr) (s : State), ∃ t w, exec i s = .next t ∧ t.responses = s.responses ++ [w] ∧
    responseStatus w ∈ [0x00#8, 0x01#8, 0x02#8, 0x10#8, 0x11#8, 0x12#8] ∧ (responseStatus w ≠ 0x00#8 → responseValue w = 0)

/-- R212: a command word, legal or illegal, whose status is not OK changes no state of the block; only the response leaves it. -/
def Obligations.FailedCommandChangesNothing : Prop :=
  ∀ (c : Word32) (s t : State) (w : Word32), perform c s = .next t → t.responses = s.responses ++ [w] →
    responseStatus w ≠ 0x00#8 → t = s.withResponse w ∧ t.buf = s.buf ∧ t.mod = s.mod ∧ t.func = s.func ∧ t.qrst = s.qrst

/-- R214: a command returns OK or a status its row of the table marks; INVALID_CHAR never comes from `B32.DEC`. -/
def Obligations.StatusesFollowTheTable : Prop :=
  ∀ (i : Instr) (s t : State) (w : Word32), exec i s = .next t → t.responses = s.responses ++ [w] →
    responseStatus w = statusCode .ok ∨ ∃ st ∈ failures i, responseStatus w = statusCode st

/-- R22: a command's result and effect depend on the command and on BUF, MOD, FUNC and QRST alone: in two states that agree in these
it gives the same response and leaves them in agreement. -/
def Obligations.ResultDependsOnTheBlockAlone : Prop :=
  ∀ (i : Instr) (s s' : State), s.sameBlock s' →
    ∃ t t' w, exec i s = .next t ∧ exec i s' = .next t' ∧ t.sameBlock t' ∧
      t.responses = s.responses ++ [w] ∧ t'.responses = s'.responses ++ [w]

/-- R45, R48: only the commands the table names write the buffer space, only the three QR commands write MOD and QRST, only
`QR.INIT` writes FUNC, and no command touches the host's list. -/
def Obligations.OnlyTheNamedCommandsWrite : Prop :=
  ∀ (i : Instr) (s t : State), exec i s = .next t →
    (writesBuf i = false → t.buf = s.buf) ∧
    (writesSymbol i = false → t.mod = s.mod ∧ t.qrst = s.qrst) ∧
    (i ≠ .qrInit → t.func = s.func) ∧
    t.commands = s.commands ∧ t.pc = s.pc

/-- R46: repeating `BUF.WR`, `B32.ENC`, `B32.DEC`, `RS.ENC` or `QR.INIT` leaves the same state: every byte reads the same, and planes
and stage are equal. -/
def Obligations.RepeatedWritesLeaveTheSameState : Prop :=
  ∀ (i : Instr) (s t : State), repeatable i = true → exec i s = .next t →
    ∃ u, exec i t = .next u ∧ (∀ a, u.buf.read a = t.buf.read a) ∧ u.mod = t.mod ∧ u.func = t.func ∧ u.qrst = t.qrst

/-- R30: after reset every byte reads 0x00, both planes are 0, the stage is 0b000 and ID reads 0x415701. -/
def Obligations.ResetLeavesTheBlockZero : Prop :=
  (∀ a, State.reset.buf.read a = 0x00#8) ∧ (∀ c, State.reset.mod.get c = false ∧ State.reset.func.get c = false) ∧
  State.reset.qrst = 0b000 ∧ exec (.csrRd 0) State.reset = .next (State.reset.withResponse 0x00415701#32)

/-- The three invariants hold at reset (R28, R30, R41; that the port's bookkeeping starts empty is the model's choice,
assumption log 1). -/
def Obligations.ResetIsLegal : Prop :=
  State.reset.buf.wf ∧ State.reset.symbolLegal ∧ State.reset.portLegal

/-- R41: every step keeps the buffer space in its canonical form: no unmapped address ever holds a byte. -/
def Obligations.StepKeepsTheBufferCanonical : Prop :=
  ∀ s t : State, s.buf.wf → step s = .next t → t.buf.wf

/-- R28, R155, R163, R167 (a, b): every step keeps the symbol legal: one of the five stages, FUNC blank or exactly as drawn, the
function patterns' colours intact, the strips identical, and light before `QR.FMT`. -/
def Obligations.StepKeepsTheSymbolLegal : Prop :=
  ∀ s t : State, s.symbolLegal → step s = .next t → t.symbolLegal

/-- R3, R21, R63: every step keeps one response for every accepted command. The host's list, the index and the responses are
the model's bookkeeping (assumption log 1). -/
def Obligations.StepKeepsOneResponsePerCommand : Prop :=
  ∀ s t : State, s.portLegal → step s = .next t →
    t.portLegal ∧ t.commands = s.commands ∧ (s.pc < s.commands.length → t.pc = s.pc + 1)

/-! ## The host procedures -/

/-- R187: the command sequence of `encode`, from any state, gives the human code of R184. -/
def Obligations.EncodeOnTheBlockIsEncode : Prop :=
  ∀ (d : Dictionary) (id : Identifier) (s : State), (encodeOnBlock d id s).2 = encodeId d id

/-- R188: the command sequence of `decode`, from any state, gives what R185 gives, in both readings of the checksum
character. -/
def Obligations.DecodeOnTheBlockIsDecode : Prop :=
  ∀ (tolerant : Bool) (d : Dictionary) (input : Text) (s : State),
    (decodeOnBlock ⟨tolerant, asciiAlnumChar⟩ d input s).2 = decodeId ⟨tolerant, asciiAlnumChar⟩ d input

/-- R192: the command sequence of `qr_matrix`, from any state, reads back the 21 rows of the matrix of R191, or fails with
`pack`'s reason. -/
def Obligations.QrMatrixOnTheBlockIsQrMatrix : Prop :=
  ∀ (text : Text) (s : State),
    (qrMatrixOnBlock text s).2 = (qrMatrix text).map fun m => (List.finRange 21).map fun y => value (rowValue m y)

/-- R189 (a, b): decoding an encoded identifier gives it back with the checksum present, for every dictionary that meets R181 and
in both readings of the checksum character. -/
def Obligations.IdentifierCodecRoundTrip : Prop :=
  ∀ (tolerant : Bool) (d : Dictionary) (id : Identifier),
    decodeId ⟨tolerant, asciiAlnumChar⟩ d (encodeId d id) = .ok ⟨id, true⟩

/-- R190: `pack` fails `unsupported_char` exactly for a character outside the alphabet, else `text_too_long` from 26 characters on,
else gives exactly 19 codewords. -/
def Obligations.PackGivesNineteenCodewords : Prop :=
  ∀ text : Text,
    ((∃ c ∈ text, upperChar c ∉ packAlphabet) → pack text = .error .unsupportedChar) ∧
    ((∀ c ∈ text, upperChar c ∈ packAlphabet) → 26 ≤ text.length → pack text = .error .textTooLong) ∧
    ((∀ c ∈ text, upperChar c ∈ packAlphabet) → text.length ≤ 25 → ∃ cw, pack text = .ok cw ∧ cw.length = 19)

end
end

