-- ==== Sys2Proof/Laws/Encoding.lean ====
section
/-! SUPPORT. The fields of a word that was packed from its fields (R60): the encoder's words read back. -/

namespace Sys2Proof

/-- Bit `i` of a packed word is a bit of exactly one of its fields. -/
theorem packBytes_getLsbD (op a b c : Byte) (i : Nat) :
    (packBytes op a b c).getLsbD i =
      if i < 8 then c.getLsbD i else if i < 16 then b.getLsbD (i - 8) else if i < 24 then a.getLsbD (i - 16)
      else op.getLsbD (i - 24) := by
  simp only [packBytes, BitVec.getLsbD_or, BitVec.getLsbD_shiftLeft, BitVec.getLsbD_setWidth]
  have hz : ∀ (v : Byte) (k : Nat), 8 ≤ k → v.getLsbD k = false := fun v k hk => BitVec.getLsbD_of_ge v k hk
  split_ifs with h1 h2 h3
  · have : i < 32 := by omega
    have h16 : i < 16 := by omega
    have h24 : i < 24 := by omega
    simp [h1, h16, h24, this]
  · have : i < 32 := by omega
    have h24 : i < 24 := by omega
    simp [h1, h2, h24, this, hz c i (by omega)]; omega
  · have : i < 32 := by omega
    simp [h1, h2, h3, this, hz c i (by omega), hz b (i - 8) (by omega)]; omega
  · by_cases h4 : i < 32
    · simp [h1, h2, h3, h4, hz c i (by omega), hz b (i - 8) (by omega), hz a (i - 16) (by omega)]; omega
    · simp [h4, hz op (i - 24) (by omega)]

@[simp] theorem opField_packBytes (op a b c : Byte) : opField (packBytes op a b c) = op := by
  ext i hi
  simp only [opField, BitVec.getElem_extractLsb', packBytes_getLsbD]
  rw [if_neg (by omega), if_neg (by omega), if_neg (by omega), Nat.add_sub_cancel_left, BitVec.getLsbD_eq_getElem hi]

@[simp] theorem aField_packBytes (op a b c : Byte) : aField (packBytes op a b c) = a := by
  ext i hi
  simp only [aField, BitVec.getElem_extractLsb', packBytes_getLsbD]
  rw [if_neg (by omega), if_neg (by omega), if_pos (by omega), Nat.add_sub_cancel_left, BitVec.getLsbD_eq_getElem hi]

@[simp] theorem bField_packBytes (op a b c : Byte) : bField (packBytes op a b c) = b := by
  ext i hi
  simp only [bField, BitVec.getElem_extractLsb', packBytes_getLsbD]
  rw [if_neg (by omega), if_pos (by omega), Nat.add_sub_cancel_left, BitVec.getLsbD_eq_getElem hi]

@[simp] theorem cField_packBytes (op a b c : Byte) : cField (packBytes op a b c) = c := by
  ext i hi
  simp only [cField, BitVec.getElem_extractLsb', packBytes_getLsbD]
  rw [if_pos (by omega), Nat.zero_add, BitVec.getLsbD_eq_getElem hi]

/-- A mask on a packed word is a mask on each field. -/
theorem packBytes_and (op a b c mo ma mb mc : Byte) :
    packBytes op a b c &&& packBytes mo ma mb mc = packBytes (op &&& mo) (a &&& ma) (b &&& mb) (c &&& mc) := by
  apply BitVec.eq_of_getLsbD_eq
  intro i _
  simp only [BitVec.getLsbD_and, packBytes_getLsbD]
  split_ifs <;> rfl

/-- A full mask keeps a byte. -/
theorem byte_and_full (v : Byte) : v &&& 0xFF#8 = v := BitVec.and_allOnes (x := v)

theorem packBytes_and_maskA (op a b c : Byte) : packBytes op a b c &&& 0xFF00FFFF#32 = packBytes op 0 b c := by
  rw [show (0xFF00FFFF#32) = packBytes 0xFF 0x00 0xFF 0xFF by decide, packBytes_and]
  simp only [byte_and_full, BitVec.and_zero, BitVec.ofNat_eq_ofNat]

theorem packBytes_and_maskAB (op a b c : Byte) : packBytes op a b c &&& 0xFF0000FF#32 = packBytes op 0 0 c := by
  rw [show (0xFF0000FF#32) = packBytes 0xFF 0x00 0x00 0xFF by decide, packBytes_and]
  simp only [byte_and_full, BitVec.and_zero, BitVec.ofNat_eq_ofNat]

/-- The mask of format I15 drops the operand. -/
theorem or_imm15_and_maskI15 (w : Word32) (imm15 : FormatWord) (h : w &&& 0xFFFF8000#32 = w) :
    (w ||| imm15.setWidth 32) &&& 0xFFFF8000#32 = w := by
  apply BitVec.eq_of_getLsbD_eq
  intro i hi
  have hw : (w.getLsbD i && (0xFFFF8000#32).getLsbD i) = w.getLsbD i := by rw [← BitVec.getLsbD_and, h]
  have hm : (imm15.getLsbD i && (0xFFFF8000#32).getLsbD i) = false := by
    by_cases h15 : i < 15
    · have : (0xFFFF8000#32).getLsbD i = false := by interval_cases i <;> rfl
      simp [this]
    · simp [BitVec.getLsbD_of_ge imm15 i (by omega)]
  simp only [BitVec.getLsbD_and, BitVec.getLsbD_or, BitVec.getLsbD_setWidth, hi, decide_true, Bool.true_and, Bool.and_or_distrib_right, hw, hm,
    Bool.or_false]

end Sys2Proof
end

