-- ==== Sys2Proof/Laws/State.lean ====
section
/-! SUPPORT. What each update of the state leaves in each field, and what reset leaves: one lemma per field per update,
all true by definition, so that no proof unfolds a record update. -/

namespace Sys2Proof.Machine

/-! ### withBuf -/

@[simp] theorem State.withBuf_buf (s : State) (m : Memory) : (s.withBuf m).buf = m := rfl
@[simp] theorem State.withBuf_mod (s : State) (m : Memory) : (s.withBuf m).mod = s.mod := rfl
@[simp] theorem State.withBuf_func (s : State) (m : Memory) : (s.withBuf m).func = s.func := rfl
@[simp] theorem State.withBuf_qrst (s : State) (m : Memory) : (s.withBuf m).qrst = s.qrst := rfl
@[simp] theorem State.withBuf_commands (s : State) (m : Memory) : (s.withBuf m).commands = s.commands := rfl
@[simp] theorem State.withBuf_pc (s : State) (m : Memory) : (s.withBuf m).pc = s.pc := rfl
@[simp] theorem State.withBuf_responses (s : State) (m : Memory) : (s.withBuf m).responses = s.responses := rfl

/-! ### withMod -/

@[simp] theorem State.withMod_buf (s : State) (p : Plane) : (s.withMod p).buf = s.buf := rfl
@[simp] theorem State.withMod_mod (s : State) (p : Plane) : (s.withMod p).mod = p := rfl
@[simp] theorem State.withMod_func (s : State) (p : Plane) : (s.withMod p).func = s.func := rfl
@[simp] theorem State.withMod_qrst (s : State) (p : Plane) : (s.withMod p).qrst = s.qrst := rfl
@[simp] theorem State.withMod_commands (s : State) (p : Plane) : (s.withMod p).commands = s.commands := rfl
@[simp] theorem State.withMod_pc (s : State) (p : Plane) : (s.withMod p).pc = s.pc := rfl
@[simp] theorem State.withMod_responses (s : State) (p : Plane) : (s.withMod p).responses = s.responses := rfl

/-! ### withFunc -/

@[simp] theorem State.withFunc_buf (s : State) (p : Plane) : (s.withFunc p).buf = s.buf := rfl
@[simp] theorem State.withFunc_mod (s : State) (p : Plane) : (s.withFunc p).mod = s.mod := rfl
@[simp] theorem State.withFunc_func (s : State) (p : Plane) : (s.withFunc p).func = p := rfl
@[simp] theorem State.withFunc_qrst (s : State) (p : Plane) : (s.withFunc p).qrst = s.qrst := rfl
@[simp] theorem State.withFunc_commands (s : State) (p : Plane) : (s.withFunc p).commands = s.commands := rfl
@[simp] theorem State.withFunc_pc (s : State) (p : Plane) : (s.withFunc p).pc = s.pc := rfl
@[simp] theorem State.withFunc_responses (s : State) (p : Plane) : (s.withFunc p).responses = s.responses := rfl

/-! ### withQrst -/

@[simp] theorem State.withQrst_buf (s : State) (q : BitVec 3) : (s.withQrst q).buf = s.buf := rfl
@[simp] theorem State.withQrst_mod (s : State) (q : BitVec 3) : (s.withQrst q).mod = s.mod := rfl
@[simp] theorem State.withQrst_func (s : State) (q : BitVec 3) : (s.withQrst q).func = s.func := rfl
@[simp] theorem State.withQrst_qrst (s : State) (q : BitVec 3) : (s.withQrst q).qrst = q := rfl
@[simp] theorem State.withQrst_commands (s : State) (q : BitVec 3) : (s.withQrst q).commands = s.commands := rfl
@[simp] theorem State.withQrst_pc (s : State) (q : BitVec 3) : (s.withQrst q).pc = s.pc := rfl
@[simp] theorem State.withQrst_responses (s : State) (q : BitVec 3) : (s.withQrst q).responses = s.responses := rfl

/-! ### withResponse -/

@[simp] theorem State.withResponse_buf (s : State) (w : Word32) : (s.withResponse w).buf = s.buf := rfl
@[simp] theorem State.withResponse_mod (s : State) (w : Word32) : (s.withResponse w).mod = s.mod := rfl
@[simp] theorem State.withResponse_func (s : State) (w : Word32) : (s.withResponse w).func = s.func := rfl
@[simp] theorem State.withResponse_qrst (s : State) (w : Word32) : (s.withResponse w).qrst = s.qrst := rfl
@[simp] theorem State.withResponse_commands (s : State) (w : Word32) : (s.withResponse w).commands = s.commands := rfl
@[simp] theorem State.withResponse_pc (s : State) (w : Word32) : (s.withResponse w).pc = s.pc := rfl
@[simp] theorem State.withResponse_responses (s : State) (w : Word32) : (s.withResponse w).responses = s.responses ++ [w] := rfl

/-! ### tick -/

@[simp] theorem State.tick_buf (s : State) : (s.tick).buf = s.buf := rfl
@[simp] theorem State.tick_mod (s : State) : (s.tick).mod = s.mod := rfl
@[simp] theorem State.tick_func (s : State) : (s.tick).func = s.func := rfl
@[simp] theorem State.tick_qrst (s : State) : (s.tick).qrst = s.qrst := rfl
@[simp] theorem State.tick_commands (s : State) : (s.tick).commands = s.commands := rfl
@[simp] theorem State.tick_pc (s : State) : (s.tick).pc = s.pc + 1 := rfl
@[simp] theorem State.tick_responses (s : State) : (s.tick).responses = s.responses := rfl

/-! ### offer -/

@[simp] theorem State.offer_buf (s : State) (w : Word32) : (s.offer w).buf = s.buf := rfl
@[simp] theorem State.offer_mod (s : State) (w : Word32) : (s.offer w).mod = s.mod := rfl
@[simp] theorem State.offer_func (s : State) (w : Word32) : (s.offer w).func = s.func := rfl
@[simp] theorem State.offer_qrst (s : State) (w : Word32) : (s.offer w).qrst = s.qrst := rfl
@[simp] theorem State.offer_commands (s : State) (w : Word32) : (s.offer w).commands = placeAt s.commands s.pc w := rfl
@[simp] theorem State.offer_pc (s : State) (w : Word32) : (s.offer w).pc = s.pc := rfl
@[simp] theorem State.offer_responses (s : State) (w : Word32) : (s.offer w).responses = s.responses := rfl

/-! ### The stage bits after an update that does not touch QRST -/

@[simp] theorem State.withBuf_initDone (s : State) (m : Memory) : (s.withBuf m).initDone = s.initDone := rfl
@[simp] theorem State.withBuf_dataDone (s : State) (m : Memory) : (s.withBuf m).dataDone = s.dataDone := rfl
@[simp] theorem State.withBuf_fmtDone (s : State) (m : Memory) : (s.withBuf m).fmtDone = s.fmtDone := rfl
@[simp] theorem State.withMod_initDone (s : State) (p : Plane) : (s.withMod p).initDone = s.initDone := rfl
@[simp] theorem State.withMod_dataDone (s : State) (p : Plane) : (s.withMod p).dataDone = s.dataDone := rfl
@[simp] theorem State.withMod_fmtDone (s : State) (p : Plane) : (s.withMod p).fmtDone = s.fmtDone := rfl
@[simp] theorem State.withFunc_initDone (s : State) (p : Plane) : (s.withFunc p).initDone = s.initDone := rfl
@[simp] theorem State.withFunc_dataDone (s : State) (p : Plane) : (s.withFunc p).dataDone = s.dataDone := rfl
@[simp] theorem State.withFunc_fmtDone (s : State) (p : Plane) : (s.withFunc p).fmtDone = s.fmtDone := rfl
@[simp] theorem State.withResponse_initDone (s : State) (w : Word32) : (s.withResponse w).initDone = s.initDone := rfl
@[simp] theorem State.withResponse_dataDone (s : State) (w : Word32) : (s.withResponse w).dataDone = s.dataDone := rfl
@[simp] theorem State.withResponse_fmtDone (s : State) (w : Word32) : (s.withResponse w).fmtDone = s.fmtDone := rfl
@[simp] theorem State.tick_initDone (s : State) : (s.tick).initDone = s.initDone := rfl
@[simp] theorem State.tick_dataDone (s : State) : (s.tick).dataDone = s.dataDone := rfl
@[simp] theorem State.tick_fmtDone (s : State) : (s.tick).fmtDone = s.fmtDone := rfl
@[simp] theorem State.offer_initDone (s : State) (w : Word32) : (s.offer w).initDone = s.initDone := rfl
@[simp] theorem State.offer_dataDone (s : State) (w : Word32) : (s.offer w).dataDone = s.dataDone := rfl
@[simp] theorem State.offer_fmtDone (s : State) (w : Word32) : (s.offer w).fmtDone = s.fmtDone := rfl

/-! ### Reset -/

@[simp] theorem State.reset_buf : State.reset.buf = [] := rfl
@[simp] theorem State.reset_mod : State.reset.mod = Plane.blank := rfl
@[simp] theorem State.reset_func : State.reset.func = Plane.blank := rfl
@[simp] theorem State.reset_qrst : State.reset.qrst = 0b000 := rfl
@[simp] theorem State.reset_commands : State.reset.commands = [] := rfl
@[simp] theorem State.reset_pc : State.reset.pc = 0 := rfl
@[simp] theorem State.reset_responses : State.reset.responses = [] := rfl

end Sys2Proof.Machine
end

