-- ==== Sys2Proof/Laws/Memory.lean ====
section
/-! SUPPORT. The laws of the buffer space: a read after a write to the same mapped address gives the value written, every
other address reads as before, and every operation keeps the canonical form. The read laws hold of every list of
cells, canonical or not. -/

namespace Sys2Proof.Machine

@[simp] theorem Memory.read_nil (a : Nat) : Memory.read [] a = 0 := rfl

theorem Memory.read_cons (b a : Nat) (w : Byte) (m : Memory) :
    Memory.read ((b, w) :: m) a = if a = b then w else Memory.read m a := rfl

theorem Memory.read_filter_self (m : Memory) (a : Nat) : Memory.read (m.filter fun c => c.1 != a) a = 0 := by
  induction m with
  | nil => rfl
  | cons c m ih =>
    by_cases h : c.1 = a
    · simp [h, ih]
    · rw [List.filter_cons_of_pos (by simpa using h), Memory.read_cons, if_neg (Ne.symm h), ih]

theorem Memory.read_filter_other (m : Memory) (a b : Nat) (h : b ≠ a) :
    Memory.read (m.filter fun c => c.1 != a) b = m.read b := by
  induction m with
  | nil => rfl
  | cons c m ih =>
    by_cases hc : c.1 = a
    · rw [List.filter_cons_of_neg (by simpa using hc), ih, Memory.read_cons, if_neg (by omega)]
    · rw [List.filter_cons_of_pos (by simpa using hc), Memory.read_cons, Memory.read_cons, ih]

theorem Memory.read_place_self (m : Memory) (a : Nat) (v : Byte) (h : ∀ c ∈ m, c.1 ≠ a) :
    (Memory.place m a v).read a = v := by
  induction m with
  | nil => simp [Memory.place, Memory.read_cons]
  | cons c m ih =>
    have hc : c.1 ≠ a := h c (by simp)
    simp only [Memory.place]
    split
    · simp [Memory.read_cons]
    · rw [Memory.read_cons, if_neg (Ne.symm hc), ih fun d hd => h d (by simp [hd])]

theorem Memory.read_place_other (m : Memory) (a b : Nat) (v : Byte) (h : b ≠ a) :
    (Memory.place m a v).read b = m.read b := by
  induction m with
  | nil => simp [Memory.place, Memory.read_cons, h]
  | cons c m ih =>
    simp only [Memory.place]
    split
    · simp [Memory.read_cons, h]
    · rw [Memory.read_cons, Memory.read_cons, ih]

/-- Read after write at a mapped address. -/
theorem Memory.read_write_self (m : Memory) (a : Nat) (v : Byte) (h : mapped a = true) : (m.write a v).read a = v := by
  simp only [Memory.write, h, if_true]
  split
  · rw [Memory.read_filter_self]; simp_all
  · exact Memory.read_place_self _ _ _ fun c hc => by simpa using (List.mem_filter.mp hc).2

/-- A write leaves every other address alone. -/
theorem Memory.read_write_other (m : Memory) (a b : Nat) (v : Byte) (h : b ≠ a) : (m.write a v).read b = m.read b := by
  simp only [Memory.write]
  split
  · split
    · exact Memory.read_filter_other _ _ _ h
    · rw [Memory.read_place_other _ _ _ _ h, Memory.read_filter_other _ _ _ h]
  · rfl

/-- All a write can do to any one byte. -/
theorem Memory.read_write (m : Memory) (a b : Nat) (v : Byte) :
    (m.write a v).read b = if b = a ∧ mapped a = true then v else m.read b := by
  by_cases h : b = a
  · subst h
    by_cases hm : mapped b = true
    · simp [Memory.read_write_self, hm]
    · simp [Memory.write, hm]
  · simp [h, Memory.read_write_other]

/-- All a range of writes can do to any one byte. -/
theorem Memory.read_writeRange (bs : List Byte) : ∀ (m : Memory) (base b : Nat),
    (m.writeRange base bs).read b =
      if base ≤ b ∧ b < base + bs.length ∧ mapped b = true then bs.getD (b - base) 0 else m.read b := by
  induction bs with
  | nil =>
    intro m base b
    have : ¬ (base ≤ b ∧ b < base + ([] : List Byte).length ∧ mapped b = true) := by simp; omega
    rw [if_neg this]; rfl
  | cons c cs ih =>
    intro m base b
    rw [Memory.writeRange, ih, Memory.read_write]
    by_cases hm : mapped b = true
    · simp only [hm, and_true, List.length_cons]
      by_cases h0 : b = base
      · subst h0; simp [hm]
      · have hn : ¬ (b = base ∧ mapped base = true) := fun h => h0 h.1
        by_cases h1 : base + 1 ≤ b ∧ b < base + 1 + cs.length
        · rw [if_pos h1, if_pos (by omega), show b - base = (b - (base + 1)) + 1 by omega, List.getD_cons_succ]
        · rw [if_neg h1, if_neg hn, if_neg (by omega)]
    · have hn : ¬ (b = base ∧ mapped base = true) := fun h => hm (h.1 ▸ h.2)
      simp [hm, hn]

@[simp] theorem Memory.readRange_length (m : Memory) (base n : Nat) : (m.readRange base n).length = n := by
  simp [Memory.readRange]

theorem Memory.readRange_getD (m : Memory) (base n i : Nat) (h : i < n) :
    (m.readRange base n).getD i 0 = m.read (base + i) := by
  simp [Memory.readRange, List.getD, h]

/-! ### The canonical form -/

theorem Memory.wf_nil : Memory.wf [] := by simp [Memory.wf]

theorem Memory.wf_filter {m : Memory} (h : m.wf) (p : Host.Cell → Bool) : Memory.wf (m.filter p) :=
  ⟨h.1.filter p, fun c hc => h.2 c (List.mem_of_mem_filter hc)⟩

theorem Memory.mem_place {m : Memory} {a : Nat} {v : Byte} {c : Host.Cell} (h : c ∈ Memory.place m a v) :
    c = (a, v) ∨ c ∈ m := by
  induction m with
  | nil => simpa [Memory.place] using h
  | cons d m ih =>
    simp only [Memory.place] at h
    split at h
    · simpa using h
    · rcases List.mem_cons.mp h with h | h
      · exact .inr (by simp [h])
      · exact (ih h).imp id fun h => by simp [h]

theorem Memory.wf_place {m : Memory} {a : Nat} {v : Byte} (h : m.wf) (ha : ∀ c ∈ m, c.1 ≠ a) (hv : v ≠ 0)
    (hm : mapped a = true) : Memory.wf (Memory.place m a v) := by
  refine ⟨?_, fun c hc => ?_⟩
  · induction m with
    | nil => simp [Memory.place]
    | cons d m ih =>
      have hd := List.pairwise_cons.mp h.1
      simp only [Memory.place]
      split
      · rename_i hlt
        refine List.pairwise_cons.mpr ⟨fun c hc => ?_, h.1⟩
        rcases List.mem_cons.mp hc with rfl | hc
        · exact hlt
        · exact Nat.lt_trans hlt (hd.1 c hc)
      · rename_i hge
        have hne : d.1 ≠ a := ha d (by simp)
        refine List.pairwise_cons.mpr ⟨fun c hc => ?_, ih ⟨hd.2, fun c hc => h.2 c (by simp [hc])⟩ fun c hc => ha c (by simp [hc])⟩
        rcases Memory.mem_place hc with rfl | hc
        · simp only at hge hne ⊢; omega
        · exact hd.1 c hc
  · rcases Memory.mem_place hc with rfl | hc
    · exact ⟨hv, hm⟩
    · exact h.2 c hc

/-- A write keeps the canonical form. -/
theorem Memory.wf_write {m : Memory} (h : m.wf) (a : Nat) (v : Byte) : Memory.wf (m.write a v) := by
  simp only [Memory.write]
  split
  · split
    · exact Memory.wf_filter h _
    · exact Memory.wf_place (Memory.wf_filter h _) (fun c hc => by simpa using (List.mem_filter.mp hc).2) ‹_› ‹_›
  · exact h

/-- A range of writes keeps the canonical form. -/
theorem Memory.wf_writeRange (bs : List Byte) : ∀ {m : Memory}, m.wf → ∀ base, Memory.wf (m.writeRange base bs) := by
  induction bs with
  | nil => intro m h base; exact h
  | cons c cs ih => intro m h base; exact ih (Memory.wf_write h base c) (base + 1)

/-- Reset's memory has the canonical form. -/
theorem State.reset_wf : State.reset.buf.wf := Memory.wf_nil

end Sys2Proof.Machine
end

