-- ==== Sys2Proof/Laws/Plane.lean ====
section
/-! SUPPORT. The laws of a module plane. -/

namespace Sys2Proof.Machine

@[simp] theorem Plane.get_ofFn (f : (y x : Fin 21) → Bool) (c : Coord) : (Plane.ofFn f).get c = f c.y c.x := by
  simp [Plane.ofFn, Plane.get]

@[simp] theorem Plane.get_blank (c : Coord) : Plane.blank.get c = false := by simp [Plane.blank]

@[simp] theorem funcPattern_get (c : Coord) : funcPattern.get c = isFunction c := by simp [funcPattern]

@[simp] theorem modPattern_get (c : Coord) : modPattern.get c = isDarkAtInit c := by simp [modPattern]

/-- All one module write can do to any one module. -/
theorem Plane.get_put (p : Plane) (c d : Coord) (b : Bool) : (p.put c b).get d = if d = c then b else p.get d := by
  rcases c with ⟨cx, cy⟩
  rcases d with ⟨dx, dy⟩
  by_cases hy : cy = dy
  · subst hy
    by_cases hx : cx = dx
    · subst hx; simp [Plane.put, Plane.get]
    · have hx' : cx.val ≠ dx.val := fun h => hx (Fin.ext h)
      simp [Plane.put, Plane.get, Vector.getElem_set_ne, hx', Ne.symm hx]
  · have hy' : cy.val ≠ dy.val := fun h => hy (Fin.ext h)
    simp [Plane.put, Plane.get, Vector.getElem_set_ne, hy', Ne.symm hy]

/-- A module that a list of writes does not name keeps its value. -/
theorem Plane.get_putAll_of_not_mem (ws : List (Coord × Bool)) : ∀ (p : Plane) (d : Coord), d ∉ ws.map Prod.fst →
    (p.putAll ws).get d = p.get d := by
  induction ws with
  | nil => intro p d _; rfl
  | cons w ws ih =>
    intro p d h
    simp only [List.map_cons, List.mem_cons, not_or] at h
    rw [Plane.putAll, ih _ _ h.2, Plane.get_put, if_neg h.1]

/-- A module that a list of writes names once gets the value written. -/
theorem Plane.get_putAll_of_mem (ws : List (Coord × Bool)) : ∀ (p : Plane) (d : Coord) (b : Bool), (ws.map Prod.fst).Nodup →
    (d, b) ∈ ws → (p.putAll ws).get d = b := by
  induction ws with
  | nil => intro p d b _ h; simp at h
  | cons w ws ih =>
    intro p d b hn h
    simp only [List.map_cons, List.nodup_cons] at hn
    rcases List.mem_cons.mp h with rfl | h
    · rw [Plane.putAll, Plane.get_putAll_of_not_mem _ _ _ hn.1, Plane.get_put, if_pos rfl]
    · exact ih _ _ _ hn.2 h

/-- Two planes that agree in every module are one. -/
theorem Plane.ext_get {p q : Plane} (h : ∀ c, p.get c = q.get c) : p = q := by
  apply Vector.ext; intro y hy
  apply Vector.ext; intro x hx
  exact h ⟨⟨x, hx⟩, ⟨y, hy⟩⟩

end Sys2Proof.Machine
end

