-- ==== Sys2Proof/Laws/Ops.lean ====
section
/-! SUPPORT. How a command can end, said once: the provers cite these instead of unfolding `respond` and `raise`. -/

namespace Sys2Proof.Machine

/-- All `respond` can do. -/
theorem respond_next {v : Value} {s t : State} (h : respond v s = .next t) : t = s.withResponse (responseWord .ok v) := by
  simpa [respond] using h.symm

/-- All `raise` can do. -/
theorem raise_next {st : Status} {s t : State} (h : raise st s = .next t) : t = s.withResponse (responseWord st 0) := by
  simpa [raise] using h.symm

theorem respond_eq (v : Value) (s : State) : respond v s = .next (s.withResponse (responseWord .ok v)) := rfl

theorem raise_eq (st : Status) (s : State) : raise st s = .next (s.withResponse (responseWord st 0)) := rfl

/-- The fields of a response word (R63). -/
@[simp] theorem responseStatus_responseWord (st : Status) (v : Value) : responseStatus (responseWord st v) = statusCode st := by
  ext i hi
  have h1 : 24 + i < 32 := by omega
  simp [responseStatus, responseWord, BitVec.getElem_extractLsb', hi, h1]

@[simp] theorem responseValue_responseWord (st : Status) (v : Value) : responseValue (responseWord st v) = v := by
  ext i hi
  have h2 : i < 32 := by omega
  simp [responseValue, responseWord, BitVec.getElem_extractLsb', hi, h2]

/-! ### Which addresses are mapped (R41) -/

theorem mapped_iff (a : Nat) :
    mapped a = true ↔ a ≤ 0x19 ∨ (0x20 ≤ a ∧ a ≤ 0x33) ∨ (0x40 ≤ a ∧ a ≤ 0x5F) := by
  simp [mapped, inCw, inBytes, inSyms, or_assoc]

/-! ### What the host's list holds where the block accepts next -/

@[simp] theorem placeAt_getElem? (l : List Word32) (n : Nat) (w : Word32) : (placeAt l n w)[n]? = some w := by
  induction n generalizing l with
  | zero => cases l <;> simp [placeAt]
  | succ n ih => cases l <;> simp [placeAt, ih]

/-- The words beside the one placed stay where they are. -/
theorem placeAt_getElem?_other (l : List Word32) (n k : Nat) (w : Word32) (hk : k ≠ n) (h : k < l.length) :
    (placeAt l n w)[k]? = l[k]? := by
  induction n generalizing l k with
  | zero =>
    cases l with
    | nil => simp at h
    | cons c l => cases k with
      | zero => exact absurd rfl hk
      | succ k => simp [placeAt]
  | succ n ih =>
    cases l with
    | nil => simp at h
    | cons c l => cases k with
      | zero => simp [placeAt]
      | succ k => simpa [placeAt] using ih l k (by omega) (by simpa using h)

@[simp] theorem nextCommand_offer (s : State) (w : Word32) : nextCommand (s.offer w) = some w := by
  simp [nextCommand, State.offer]

/-! ### Bit strings -/

@[simp] theorem bitsOf_length (n v : Nat) : (bitsOf n v).length = n := by
  induction n with
  | zero => rfl
  | succ n ih => simp [bitsOf, ih]

@[simp] theorem bytesBits_length (bs : List Byte) : (bytesBits bs).length = 8 * bs.length := by
  induction bs with
  | nil => rfl
  | cons b bs ih =>
    simp only [bytesBits, List.flatMap_cons, List.length_append, List.length_cons] at ih ⊢
    rw [ih, byteBits, bitsOf_length]; omega

/-- Bit `k` of a number written most significant first. -/
theorem bitsOf_getElem? (n v k : Nat) : (bitsOf n v)[k]? = if k < n then some (v.testBit (n - 1 - k)) else none := by
  induction n generalizing k with
  | zero => simp [bitsOf]
  | succ n ih =>
    cases k with
    | zero => simp [bitsOf]
    | succ k => simp only [bitsOf, List.getElem?_cons_succ, ih, Nat.add_lt_add_iff_right]; congr 3; omega

/-- Bit 8·i + j of a byte sequence is bit 7 - j of byte i (R43). -/
theorem bytesBits_getElem? (bs : List Byte) (i j : Nat) (h : j < 8) :
    (bytesBits bs)[8 * i + j]? = bs[i]?.map fun b => b.getLsbD (7 - j) := by
  induction bs generalizing i with
  | nil => simp [bytesBits]
  | cons b bs ih =>
    have hb : (byteBits b).length = 8 := bitsOf_length _ _
    have hs : bytesBits (b :: bs) = byteBits b ++ bytesBits bs := by simp [bytesBits]
    rw [hs]
    cases i with
    | zero =>
      rw [List.getElem?_append_left (by omega), byteBits, bitsOf_getElem?, if_pos (by omega)]
      simp [BitVec.getLsbD]
    | succ i =>
      rw [List.getElem?_append_right (by omega), hb, show 8 * (i + 1) + j - 8 = 8 * i + j by omega, ih]
      rfl

theorem ofBits_append (l : List Bool) (b : Bool) : ofBits (l ++ [b]) = 2 * ofBits l + b.toNat := by simp [ofBits]

/-- Bit `j` of the number a bit string stands for, its last bit the least significant. -/
theorem ofBits_testBit (l : List Bool) (j : Nat) : (ofBits l).testBit j = l.reverse.getD j false := by
  induction l using List.reverseRecOn generalizing j with
  | nil => simp [ofBits]
  | append_singleton l b ih =>
    rw [ofBits_append]
    cases j with
    | zero => cases b <;> simp
    | succ j =>
      have h2 : (2 * ofBits l + b.toNat) / 2 = ofBits l := by cases b <;> (simp; try omega)
      rw [Nat.testBit_succ, h2, ih]
      simp

/-- A bit string of length `n` stands for a number below 2^n. -/
theorem ofBits_lt (l : List Bool) : ofBits l < 2 ^ l.length := by
  induction l using List.reverseRecOn with
  | nil => simp [ofBits]
  | append_singleton l b ih =>
    rw [ofBits_append, List.length_append, List.length_singleton, Nat.pow_succ]
    have : b.toNat ≤ 1 := Bool.toNat_le b
    omega

end Sys2Proof.Machine
end

