-- ==== Sys2Proof/Laws/PerInstr.lean ====
section
/-! SUPPORT. Families of lemmas with one lemma per constructor of Instr. -/

namespace Sys2Proof.Laws.EncodeMatchesRow

/-- The word of an instruction matches the instruction's row of the opcode table, `(cmd and mask) = match`, whatever the
operands (R64). -/
def Statement (i : Instr) : Prop := i.row.matches (encode i) = true

theorem nop : Statement (.nop) := by
  unfold Statement; decide

theorem bufWr (addr : Nat) (data : Byte) : Statement (.bufWr addr data) := by
  simp [Statement, Instr.row, encode, Row.matches, rowAB, packBytes_and_maskAB]

theorem bufRd (addr : Nat) : Statement (.bufRd addr) := by
  simp [Statement, Instr.row, encode, Row.matches, rowA, packBytes_and_maskA]

theorem csrRd (idx : Nat) : Statement (.csrRd idx) := by
  simp [Statement, Instr.row, encode, Row.matches, rowA, packBytes_and_maskA]

theorem b32Enc (off len : Nat) : Statement (.b32Enc off len) := by
  simp [Statement, Instr.row, encode, Row.matches, rowAB, packBytes_and_maskAB]

theorem b32Dec (cnt : Nat) : Statement (.b32Dec cnt) := by
  simp [Statement, Instr.row, encode, Row.matches, rowA, packBytes_and_maskA]

theorem b32Sym (v : Nat) : Statement (.b32Sym v) := by
  simp [Statement, Instr.row, encode, Row.matches, rowA, packBytes_and_maskA]

theorem b32Val (ch : Byte) : Statement (.b32Val ch) := by
  simp [Statement, Instr.row, encode, Row.matches, rowA, packBytes_and_maskA]

theorem ck5 (off len : Nat) : Statement (.ck5 off len) := by
  simp [Statement, Instr.row, encode, Row.matches, rowAB, packBytes_and_maskAB]

theorem gfExp (i : Nat) : Statement (.gfExp i) := by
  simp [Statement, Instr.row, encode, Row.matches, rowA, packBytes_and_maskA]

theorem gfLog (v : Byte) : Statement (.gfLog v) := by
  simp [Statement, Instr.row, encode, Row.matches, rowA, packBytes_and_maskA]

theorem gfMul (x y : Byte) : Statement (.gfMul x y) := by
  simp [Statement, Instr.row, encode, Row.matches, rowAB, packBytes_and_maskAB]

theorem rsGen (j : Nat) : Statement (.rsGen j) := by
  simp [Statement, Instr.row, encode, Row.matches, rowA, packBytes_and_maskA]

theorem rsEnc : Statement (.rsEnc) := by
  unfold Statement; decide

theorem rsSyn (i : Nat) : Statement (.rsSyn i) := by
  simp [Statement, Instr.row, encode, Row.matches, rowA, packBytes_and_maskA]

theorem fmtEnc (d : Nat) : Statement (.fmtEnc d) := by
  simp [Statement, Instr.row, encode, Row.matches, rowA, packBytes_and_maskA]

theorem qrInit : Statement (.qrInit) := by
  unfold Statement; decide

theorem qrData : Statement (.qrData) := by
  unfold Statement; decide

theorem qrFmt (imm15 : FormatWord) : Statement (.qrFmt imm15) := by
  exact decide_eq_true (or_imm15_and_maskI15 (packBytes 0x62 0 0 0) imm15 (by decide))

theorem qrGet (y x : Nat) : Statement (.qrGet y x) := by
  simp [Statement, Instr.row, encode, Row.matches, rowAB, packBytes_and_maskAB]

theorem qrRow (y sel : Nat) : Statement (.qrRow y sel) := by
  simp [Statement, Instr.row, encode, Row.matches, rowAB, packBytes_and_maskAB]

end Sys2Proof.Laws.EncodeMatchesRow
end

