-- ==== Sys2Proof/Laws/Step.lean ====
section
/-! SUPPORT. What one command and one step can do, said once with all their guards: a proof about every command or every
step starts from these and unfolds no meaning. -/

namespace Sys2Proof.Machine

theorem next_eq_iff {s t : State} : (Host.Outcome.next s : Host.Outcome State Fault Refusal) = .next t ↔ t = s :=
  ⟨fun h => by injection h with h; exact h.symm, fun h => by rw [h]⟩

/-- All the ways a command can end: a response alone; bytes stored and OK; or one of the three symbol updates, its stage
condition met. -/
inductive Ends (i : Instr) (s t : State) : Prop where
  | answered (st : Status) (v : Value) (h : t = s.withResponse (responseWord st v)) (hv : st = .ok ∨ v = 0)
  | stored (base : Nat) (bs : List Byte) (v : Value)
      (h : t = (s.withBuf (s.buf.writeRange base bs)).withResponse (responseWord .ok v))
      (hi : (∃ a d, i = .bufWr a d) ∨ (∃ a n, i = .b32Enc a n) ∨ (∃ n, i = .b32Dec n) ∨ i = .rsEnc)
  | drawn (hi : i = .qrInit)
      (h : t = (((s.withMod modPattern).withFunc funcPattern).withQrst stageInit).withResponse (responseWord .ok 0))
  | placed (hi : i = .qrData) (h1 : s.initDone = true) (h2 : s.dataDone = false)
      (h : t = ((s.withMod (s.mod.putAll (dataWrites s.func (s.cwList Config.nCw)))).withQrst
        (setDataDone s.qrst)).withResponse (responseWord .ok 0))
  | formatted (w : FormatWord) (hi : i = .qrFmt w) (h1 : s.initDone = true) (h2 : s.fmtDone = false)
      (h : t = ((s.withMod (s.mod.putAll (formatWrites w))).withQrst (setFmtDone s.qrst)).withResponse (responseWord .ok 0))

theorem Ends.of_respond {i : Instr} {s t : State} {v : Value} (h : respond v s = .next t) : Ends i s t :=
  .answered .ok v (respond_next h) (.inl rfl)

theorem Ends.of_raise {i : Instr} {s t : State} {st : Status} (h : raise st s = .next t) : Ends i s t :=
  .answered st 0 (raise_next h) (.inr rfl)

/-- All a command can do. -/
theorem exec_ends {i : Instr} {s t : State} (h : exec i s = .next t) : Ends i s t := by
  cases i with
  | nop => exact .of_respond h
  | bufWr addr data =>
    simp only [exec, execBufWr] at h
    split at h
    · exact .stored addr [data] 0 (respond_next h) (.inl ⟨_, _, rfl⟩)
    · exact .of_raise h
  | bufRd addr => simp only [exec, execBufRd] at h; split at h <;> first | exact .of_respond h | exact .of_raise h
  | csrRd idx => simp only [exec, execCsrRd] at h; split at h <;> first | exact .of_respond h | exact .of_raise h
  | b32Enc off len =>
    simp only [exec, execB32Enc] at h
    split at h
    · exact .stored _ _ _ (respond_next h) (.inr (.inl ⟨_, _, rfl⟩))
    · exact .of_raise h
  | b32Dec cnt =>
    simp only [exec, execB32Dec] at h
    split at h
    · split at h
      · exact .stored _ _ _ (respond_next h) (.inr (.inr (.inl ⟨_, rfl⟩)))
      · exact .of_raise h
    · exact .of_raise h
  | b32Sym v => simp only [exec, execB32Sym] at h; split at h <;> first | exact .of_respond h | exact .of_raise h
  | b32Val ch => simp only [exec, execB32Val] at h; split at h <;> first | exact .of_respond h | exact .of_raise h
  | ck5 off len => simp only [exec, execCk5] at h; split at h <;> first | exact .of_respond h | exact .of_raise h
  | gfExp i => exact .of_respond h
  | gfLog v => simp only [exec, execGfLog] at h; split at h <;> first | exact .of_respond h | exact .of_raise h
  | gfMul x y => exact .of_respond h
  | rsGen j => simp only [exec, execRsGen] at h; split at h <;> first | exact .of_respond h | exact .of_raise h
  | rsEnc => exact .stored _ _ _ (respond_next h) (.inr (.inr (.inr rfl)))
  | rsSyn i => simp only [exec, execRsSyn] at h; split at h <;> first | exact .of_respond h | exact .of_raise h
  | fmtEnc d => simp only [exec, execFmtEnc] at h; split at h <;> first | exact .of_respond h | exact .of_raise h
  | qrInit => exact .drawn rfl (respond_next h)
  | qrData =>
    simp only [exec, execQrData] at h
    split at h
    · exact .of_raise h
    · rename_i hg
      simp only [Bool.or_eq_true, Bool.not_eq_true', not_or, Bool.not_eq_false, Bool.not_eq_true] at hg
      exact .placed rfl hg.1 hg.2 (respond_next h)
  | qrFmt w =>
    simp only [exec, execQrFmt] at h
    split at h
    · exact .of_raise h
    · rename_i hg
      simp only [Bool.or_eq_true, Bool.not_eq_true', not_or, Bool.not_eq_false, Bool.not_eq_true] at hg
      exact .formatted w rfl hg.1 hg.2 (respond_next h)
  | qrGet y x => simp only [exec, execQrGet] at h; split at h <;> first | exact .of_respond h | exact .of_raise h
  | qrRow y sel =>
    simp only [exec, execQrRow] at h
    split at h
    · split at h <;> first | exact .of_respond h | exact .of_raise h
    · exact .of_raise h

/-- All a step can do: nothing where no command waits; else the command's meaning, or ILLEGAL_CMD, on the state whose index has
moved on. -/
theorem step_cases {s t : State} (h : step s = .next t) :
    (nextCommand s = none ∧ t = s) ∨
    (∃ w i, nextCommand s = some w ∧ decode w = .ok i ∧ exec i s.tick = .next t) ∨
    ∃ w e, nextCommand s = some w ∧ decode w = .error e ∧ t = s.tick.withResponse (responseWord .illegalCmd 0) := by
  unfold step at h
  split at h
  · rename_i w hw
    unfold perform at h
    split at h
    · exact .inr (.inl ⟨w, _, hw, ‹_›, h⟩)
    · exact .inr (.inr ⟨w, _, hw, ‹_›, raise_next h⟩)
  · exact .inl ⟨‹_›, next_eq_iff.mp h⟩

end Sys2Proof.Machine
end

