-- ==== Sys2Proof/Machine/Assembler.lean ====
section
/-! DEFINITION. The written form of commands and responses (spec 30_encoding.md R68, R69): one command per line, the mnemonic and
its operands `a`, `b` or `imm15`, commas between them, a comment from `;` on. Notation for reading programs; no meaning in
Dispatch.lean calls it. Each line is one command: there are no pseudo-instructions. -/

namespace Sys2Proof.Machine

/-! ### Numerals (R5) -/

/-- The value of a digit character. -/
def digitValue (c : Char) : Option Nat :=
  if 0x30 ≤ c.toNat ∧ c.toNat ≤ 0x39 then some (c.toNat - 0x30)
  else if 0x41 ≤ c.toNat ∧ c.toNat ≤ 0x46 then some (c.toNat - 0x41 + 10)
  else if 0x61 ≤ c.toNat ∧ c.toNat ≤ 0x66 then some (c.toNat - 0x61 + 10)
  else none

/-- Digits in a base, most significant first; none for no digit at all or a digit that the base does not have. -/
def readDigits (base : Nat) (t : Text) : Option Nat :=
  if t.isEmpty then none
  else t.foldl (fun n c => n.bind fun n => (digitValue c).bind fun d => if d < base then some (base * n + d) else none) (some 0)

/-- An operand: `0x` hexadecimal, `0b` binary, a character in single quotes, otherwise decimal (R5, R68). -/
def readOperand (t : Text) : Option Nat :=
  match t with
  | '0' :: 'x' :: ds => readDigits 16 ds
  | '0' :: 'b' :: ds => readDigits 2 ds
  | ['\'', c, '\''] => (charCode c).map BitVec.toNat
  | ds => readDigits 10 ds

/-- A hexadecimal digit, in capitals. -/
def hexDigit (d : Nat) : Char :=
  ['0', '1', '2', '3', '4', '5', '6', '7', '8', '9', 'A', 'B', 'C', 'D', 'E', 'F'].getD d '0'

/-- A number as `0x` and `k` hexadecimal digits. -/
def writeHex (k n : Nat) : Text := '0' :: 'x' :: (List.range k).map fun i => hexDigit (n / 16 ^ (k - 1 - i) % 16)

/-! ### Commands -/

/-- The mnemonic of R64. -/
def mnemonic : Instr → Text
  | .nop => ['N', 'O', 'P']
  | .bufWr _ _ => ['B', 'U', 'F', '.', 'W', 'R']
  | .bufRd _ => ['B', 'U', 'F', '.', 'R', 'D']
  | .csrRd _ => ['C', 'S', 'R', '.', 'R', 'D']
  | .b32Enc _ _ => ['B', '3', '2', '.', 'E', 'N', 'C']
  | .b32Dec _ => ['B', '3', '2', '.', 'D', 'E', 'C']
  | .b32Sym _ => ['B', '3', '2', '.', 'S', 'Y', 'M']
  | .b32Val _ => ['B', '3', '2', '.', 'V', 'A', 'L']
  | .ck5 _ _ => ['C', 'K', '5']
  | .gfExp _ => ['G', 'F', '.', 'E', 'X', 'P']
  | .gfLog _ => ['G', 'F', '.', 'L', 'O', 'G']
  | .gfMul _ _ => ['G', 'F', '.', 'M', 'U', 'L']
  | .rsGen _ => ['R', 'S', '.', 'G', 'E', 'N']
  | .rsEnc => ['R', 'S', '.', 'E', 'N', 'C']
  | .rsSyn _ => ['R', 'S', '.', 'S', 'Y', 'N']
  | .fmtEnc _ => ['F', 'M', 'T', '.', 'E', 'N', 'C']
  | .qrInit => ['Q', 'R', '.', 'I', 'N', 'I', 'T']
  | .qrData => ['Q', 'R', '.', 'D', 'A', 'T', 'A']
  | .qrFmt _ => ['Q', 'R', '.', 'F', 'M', 'T']
  | .qrGet _ _ => ['Q', 'R', '.', 'G', 'E', 'T']
  | .qrRow _ _ => ['Q', 'R', '.', 'R', 'O', 'W']

/-- The operands in the order `a`, `b`, or `imm15` (R68). -/
def operands : Instr → List Nat
  | .nop | .rsEnc | .qrInit | .qrData => []
  | .bufWr addr data => [addr, data.toNat]
  | .bufRd addr => [addr]
  | .csrRd idx => [idx]
  | .b32Enc off len => [off, len]
  | .b32Dec cnt => [cnt]
  | .b32Sym v => [v]
  | .b32Val ch => [ch.toNat]
  | .ck5 off len => [off, len]
  | .gfExp n => [n]
  | .gfLog v => [v.toNat]
  | .gfMul x y => [x.toNat, y.toNat]
  | .rsGen j => [j]
  | .rsSyn n => [n]
  | .fmtEnc d => [d]
  | .qrFmt imm15 => [imm15.toNat]
  | .qrGet y x => [y, x]
  | .qrRow y sel => [y, sel]

/-- One command of each row, its operands 0: the table the reader looks a mnemonic up in. -/
def rowCommands : List Instr :=
  [.nop, .bufWr 0 0, .bufRd 0, .csrRd 0, .b32Enc 0 0, .b32Dec 0, .b32Sym 0, .b32Val 0, .ck5 0 0, .gfExp 0, .gfLog 0, .gfMul 0 0,
   .rsGen 0, .rsEnc, .rsSyn 0, .fmtEnc 0, .qrInit, .qrData, .qrFmt 0, .qrGet 0 0, .qrRow 0 0]

/-- The word of a row's command with these operands in its fields; none where a number does not fit or the number of
operands is not the format's (R60, R61). -/
def fillRow (row : Instr) (args : List Nat) : Option Word32 :=
  match row, args with
  | .qrFmt _, [v] => if v < 2 ^ 15 then some (encode (.qrFmt (BitVec.ofNat 15 v))) else none
  | row, args =>
    if args.length = (operands row).length ∧ args.all (· < 256) then
      some (encode row ||| (field8 (args.getD 0 0)).setWidth 32 <<< 16 ||| (field8 (args.getD 1 0)).setWidth 32 <<< 8)
    else none

/-- Characters put before the first piece of a cut text. -/
def addFront (cs : Text) (parts : List Text) : List Text :=
  match parts with
  | [] => [cs]
  | p :: rest => (cs ++ p) :: rest

/-- A text cut at its commas; a character in single quotes is never a separator. -/
def cutOperands : Text → List Text
  | '\'' :: c :: '\'' :: rest => addFront ['\'', c, '\''] (cutOperands rest)
  | ',' :: rest => [] :: cutOperands rest
  | c :: rest => addFront [c] (cutOperands rest)
  | [] => [[]]

/-- A line up to its comment; a character in single quotes starts none. -/
def stripComment : Text → Text
  | '\'' :: c :: '\'' :: rest => '\'' :: c :: '\'' :: stripComment rest
  | ';' :: _ => []
  | c :: rest => c :: stripComment rest
  | [] => []

/-- One line read: none for a line that is no command (R68). -/
def assemble (line : Text) : Option Word32 :=
  let t := trimText (stripComment line)
  let name := t.takeWhile fun c => !c.isWhitespace
  let rest := trimText (t.drop name.length)
  let args := if rest.isEmpty then some [] else (cutOperands rest).mapM fun a => readOperand (trimText a)
  (rowCommands.find? fun i => mnemonic i == name).bind fun row => args.bind (fillRow row)

/-- How a command is written: byte operands as two hexadecimal digits, the format word as four (R68). -/
def writeCommand (i : Instr) : Text :=
  let width := match i with
    | .qrFmt _ => 4
    | _ => 2
  match (operands i).map (writeHex width) with
  | [] => mnemonic i
  | first :: others => mnemonic i ++ [' '] ++ first ++ others.flatMap fun a => [',', ' '] ++ a

/-! ### Responses -/

/-- The name of a status (R210). -/
def statusName : Status → Text
  | .ok => ['O', 'K']
  | .invalidChar => ['I', 'N', 'V', 'A', 'L', 'I', 'D', '_', 'C', 'H', 'A', 'R']
  | .gfDomain => ['G', 'F', '_', 'D', 'O', 'M', 'A', 'I', 'N']
  | .illegalCmd => ['I', 'L', 'L', 'E', 'G', 'A', 'L', '_', 'C', 'M', 'D']
  | .range => ['R', 'A', 'N', 'G', 'E']
  | .seq => ['S', 'E', 'Q']

/-- The status of a response word; none for a code the block never returns (R210, U4). -/
def statusOf (w : Word32) : Option Status :=
  [Status.ok, .invalidChar, .gfDomain, .illegalCmd, .range, .seq].find? fun st => statusCode st == responseStatus w

/-- A response written `-> OK value` or `-> STATUSNAME`, the value in six hexadecimal digits (R68). -/
def writeResponse (w : Word32) : Option Text :=
  (statusOf w).map fun st =>
    ['-', '>', ' '] ++ statusName st ++ if st = .ok then ' ' :: writeHex 6 (responseValue w).toNat else []

end Sys2Proof.Machine
end

