-- ==== Sys2Proof/Tests/Slice0.lean ====
section
/-! SUPPORT. Tests of this model: each expected value is written out in spec/ (95_test_vectors.md or an example of the rule named).
After them, one witness for every statement with hypotheses, at the ends of each clause's range. -/

namespace Sys2Proof.Tests

-- One theorem at a time: a hundred waiting kernel checks each hold a thread and its memory.
set_option Elab.async false

open Sys2Proof Sys2Proof.Machine

/-! ## Helpers: small states, and what an outcome holds -/

/-- The state an outcome carries; a stop carries none. -/
def after : Host.Outcome State Fault Refusal → Option State
  | .next t => some t
  | _ => none

/-- The last response word of an outcome. -/
def answer (o : Host.Outcome State Fault Refusal) : Option Word32 := (after o).bind fun t => t.responses.getLast?

/-- Reset, with these bytes stored from an address on. -/
def holding (base : Nat) (bs : List Byte) : State := State.reset.withBuf (Memory.writeRange [] base bs)

/-- Reset, with a symbol started (rule R161). -/
def started : State := ((State.reset.withMod modPattern).withFunc funcPattern).withQrst 0b001

/-- Reset, with these command words offered. -/
def offered (ws : List Word32) : State := { State.reset with commands := ws }

/-- The bytes 00 01 02 ... of T1 and T14. -/
def counting (n : Nat) : List Byte := (List.range n).map fun i => BitVec.ofNat 8 i

/-- Some bytes of the buffer space after an outcome. -/
def stored (o : Host.Outcome State Fault Refusal) (base n : Nat) : Option (List Byte) :=
  (after o).map fun t => t.buf.readRange base n

/-! ## WellFormed: each check refuses an operand its field cannot hold (R60, R62) -/

theorem test_wf_refuses_one_operand :
    (Instr.bufWr 256 0).wf = false ∧ (Instr.bufRd 256).wf = false ∧ (Instr.csrRd 256).wf = false ∧
    (Instr.b32Dec 256).wf = false ∧ (Instr.b32Sym 256).wf = false ∧ (Instr.gfExp 256).wf = false ∧
    (Instr.rsGen 256).wf = false ∧ (Instr.rsSyn 256).wf = false ∧ (Instr.fmtEnc 256).wf = false := by decide

theorem test_wf_refuses_either_operand :
    (Instr.b32Enc 256 0).wf = false ∧ (Instr.b32Enc 0 256).wf = false ∧ (Instr.ck5 256 0).wf = false ∧
    (Instr.ck5 0 256).wf = false ∧ (Instr.qrGet 256 0).wf = false ∧ (Instr.qrGet 0 256).wf = false ∧
    (Instr.qrRow 256 0).wf = false ∧ (Instr.qrRow 0 256).wf = false := by decide

theorem test_wf_accepts_out_of_range_operands : (Instr.qrGet 255 255).wf = true ∧ (Instr.fmtEnc 32).wf = true := by decide

/-! ## Decode: one word for every constructor, written out from R64 and R68 -/

theorem test_decode_nop : decode 0b00000000000000000000000000000000#32 = .ok .nop := by decide
theorem test_decode_bufWr : decode 0b00000001001000001111111100000000#32 = .ok (.bufWr 0x20 0xFF) := by decide
theorem test_decode_bufRd : decode 0b00000010000110010000000000000000#32 = .ok (.bufRd 0x19) := by decide
theorem test_decode_csrRd : decode 0b00000011000000010000000000000000#32 = .ok (.csrRd 1) := by decide
theorem test_decode_b32Enc : decode 0b00010000000000100000010100000000#32 = .ok (.b32Enc 2 5) := by decide
theorem test_decode_b32Dec : decode 0b00010001000010010000000000000000#32 = .ok (.b32Dec 9) := by decide
theorem test_decode_b32Sym : decode 0b00010010000001000000000000000000#32 = .ok (.b32Sym 4) := by decide
theorem test_decode_b32Val : decode 0b00010011011011000000000000000000#32 = .ok (.b32Val 0x6C) := by decide
theorem test_decode_ck5 : decode 0b00100000000011100000011100000000#32 = .ok (.ck5 14 7) := by decide
theorem test_decode_gfExp : decode 0b00110000111111100000000000000000#32 = .ok (.gfExp 254) := by decide
theorem test_decode_gfLog : decode 0b00110001000111010000000000000000#32 = .ok (.gfLog 0x1D) := by decide
theorem test_decode_gfMul : decode 0b00110010010101111000001100000000#32 = .ok (.gfMul 0x57 0x83) := by decide
theorem test_decode_rsGen : decode 0b01000000000010000000000000000000#32 = .ok (.rsGen 8) := by decide
theorem test_decode_rsEnc : decode 0b01000001000000000000000000000000#32 = .ok .rsEnc := by decide
theorem test_decode_rsSyn : decode 0b01000010000001110000000000000000#32 = .ok (.rsSyn 7) := by decide
theorem test_decode_fmtEnc : decode 0b01010000000111110000000000000000#32 = .ok (.fmtEnc 31) := by decide
theorem test_decode_qrInit : decode 0b01100000000000000000000000000000#32 = .ok .qrInit := by decide
theorem test_decode_qrData : decode 0b01100001000000000000000000000000#32 = .ok .qrData := by decide
theorem test_decode_qrFmt : decode 0b01100010000000000111011111000100#32 = .ok (.qrFmt 0x77C4) := by decide
theorem test_decode_qrGet : decode 0b01100011000011010000100000000000#32 = .ok (.qrGet 13 8) := by decide
theorem test_decode_qrRow : decode 0b01100100000000000000000100000000#32 = .ok (.qrRow 0 1) := by decide

/-- R66: the opcodes at both ends of each gap of the map, and a must-be-zero bit of each format. -/
theorem test_decode_refuses :
    ([0x04, 0x0F, 0x14, 0x1F, 0x21, 0x2F, 0x33, 0x3F, 0x43, 0x4F, 0x51, 0x5F, 0x65, 0xFF] : List Byte).all
      (fun op => decode (packBytes op 0 0 0) = .error .unknownOp) ∧
    decode 0x00800000#32 = .error .mustBeZero ∧ decode 0x02000100#32 = .error .mustBeZero ∧
    decode 0x01000001#32 = .error .mustBeZero ∧ decode 0x62008000#32 = .error .mustBeZero ∧
    decode 0x62800000#32 = .error .mustBeZero := by decide

theorem test_encode_words : encode (.gfMul 0x57 0x83) = 0x32578300#32 ∧ encode (.qrFmt 0x77C4) = 0x620077C4#32 ∧
    encode (.bufWr 0x20 0xFF) = 0x0120FF00#32 ∧ encode .rsEnc = 0x41000000#32 := by decide

/-! ## One step from reset, offered by the host's entry -/

theorem test_step_runs_the_offered_word : answer (step (State.reset.withFetchWord 32 0x32578300)) = some 0x00000031#32 := by
  decide +kernel

theorem test_step_answers_illegal : answer (step (State.reset.withFetchWord 32 0x00000001)) = some 0x10000000#32 := by
  decide +kernel

theorem test_table_word : decodeTableWord 32 0x64000100 = some (.qrRow 0 1) ∧ decodeTableWord 32 0x65000000 = none := by decide

/-! ## The commands -/

/-- R80. -/
theorem test_nop : answer (exec .nop State.reset) = some 0#32 := by decide +kernel

/-- T10: the last byte of each region is mapped, the next address is not. -/
theorem test_bufWr_mapped : answer (exec (.bufWr 0x19 0xAB) State.reset) = some 0#32 ∧
    stored (exec (.bufWr 0x19 0xAB) State.reset) 0x18 2 = some [0x00, 0xAB] := by decide +kernel
theorem test_bufWr_unmapped : ([0x1A, 0x1F, 0x34, 0x3F, 0x60, 0xFF].all fun a =>
    answer (exec (.bufWr a 0xFF) State.reset) = some 0x11000000#32) := by decide +kernel

/-- T10. -/
theorem test_bufRd : answer (exec (.bufRd 0x5F) (holding 0x5F [0x7A])) = some 0x0000007A#32 := by decide +kernel
theorem test_bufRd_unmapped : answer (exec (.bufRd 0x60) State.reset) = some 0x11000000#32 := by decide +kernel

/-- T10. -/
theorem test_csrRd_id : answer (exec (.csrRd 0) State.reset) = some 0x00415701#32 := by decide +kernel
theorem test_csrRd_range : answer (exec (.csrRd 2) State.reset) = some 0x11000000#32 := by decide +kernel

/-- R95's example, and T14: `off + len` beyond 20. -/
theorem test_b32Enc : answer (exec (.b32Enc 2 5) (holding 0x20 (counting 7))) = some 8#32 ∧
    stored (exec (.b32Enc 2 5) (holding 0x20 (counting 7))) 0x40 9 =
      some [0x30, 0x38, 0x31, 0x47, 0x38, 0x31, 0x38, 0x36, 0x00] := by decide +kernel
theorem test_b32Enc_range : answer (exec (.b32Enc 20 1) State.reset) = some 0x11000000#32 ∧
    answer (exec (.b32Enc 20 0) State.reset) = some 0#32 := by decide +kernel

/-- R96's example: lower case, confusables and a hyphen. -/
theorem test_b32Dec : answer (exec (.b32Dec 9) (holding 0x40 [0x6F, 0x38, 0x31, 0x67, 0x2D, 0x38, 0x49, 0x38, 0x36])) = some 5#32 ∧
    stored (exec (.b32Dec 9) (holding 0x40 [0x6F, 0x38, 0x31, 0x67, 0x2D, 0x38, 0x49, 0x38, 0x36])) 0x20 6 =
      some [0x02, 0x03, 0x04, 0x05, 0x06, 0x00] := by decide +kernel
/-- T12 (`7ZZ`), T14. -/
theorem test_b32Dec_fragment : stored (exec (.b32Dec 3) (holding 0x40 [0x37, 0x5A, 0x5A])) 0x20 2 = some [0x3F, 0x00] ∧
    answer (exec (.b32Dec 33) State.reset) = some 0x11000000#32 := by decide +kernel

/-- R97's examples. -/
theorem test_b32Sym : answer (exec (.b32Sym 16) State.reset) = some 0x47#32 ∧
    answer (exec (.b32Sym 32) State.reset) = some 0x11000000#32 := by decide +kernel

/-- R98's examples. -/
theorem test_b32Val : answer (exec (.b32Val 0x6C) State.reset) = some 1#32 ∧ answer (exec (.b32Val 0x75) State.reset) = some 0x1B#32 := by
  decide +kernel
theorem test_b32Val_invalid : answer (exec (.b32Val 0x2D) State.reset) = some 0x01000000#32 := by decide +kernel

/-- R106's example, and T22. -/
theorem test_ck5 : answer (exec (.ck5 0 7) (holding 0x20 (counting 7))) = some 4#32 := by decide +kernel
theorem test_ck5_limits : answer (exec (.ck5 20 0) State.reset) = some 5#32 ∧
    answer (exec (.ck5 14 7) State.reset) = some 0x11000000#32 := by decide +kernel

/-- T30. -/
theorem test_gfExp : answer (exec (.gfExp 8) State.reset) = some 0x1D#32 ∧ answer (exec (.gfExp 255) State.reset) = some 1#32 := by
  decide +kernel
theorem test_gfLog : answer (exec (.gfLog 0xFF) State.reset) = some 0xAF#32 ∧
    answer (exec (.gfLog 0) State.reset) = some 0x02000000#32 := by decide +kernel
theorem test_gfMul : answer (exec (.gfMul 0xFF 0xFF) State.reset) = some 0xE2#32 ∧ answer (exec (.gfMul 0 0x53) State.reset) = some 0#32 := by
  decide +kernel

/-- T33. -/
theorem test_rsGen : answer (exec (.rsGen 6) State.reset) = some 0x7F#32 ∧ answer (exec (.rsGen 8) State.reset) = some 0x11000000#32 := by
  decide +kernel

/-- The 19 data codewords of `HELLO WORLD` (T50). -/
def hello : List Byte :=
  [0x20, 0x5B, 0x0B, 0x78, 0xD1, 0x72, 0xDC, 0x4D, 0x43, 0x40, 0xEC, 0x11, 0xEC, 0x11, 0xEC, 0x11, 0xEC, 0x11, 0xEC]

/-- R131's example. -/
theorem test_rsEnc : stored (exec .rsEnc (holding 0 hello)) 18 8 = some [0xEC, 0xD1, 0xEF, 0xC4, 0xCF, 0x4E, 0xC3, 0x6D] := by
  decide +kernel

/-- T33: one codeword wrong by 1 at the coefficient of x^22. -/
theorem test_rsSyn : answer (exec (.rsSyn 1) (holding 0 ((hello.set 3 0x79) ++ [0xD1, 0xEF, 0xC4, 0xCF, 0x4E, 0xC3, 0x6D]))) =
    some 0xEA#32 := by decide +kernel
theorem test_rsSyn_range : answer (exec (.rsSyn 7) State.reset) = some 0x11000000#32 := by decide +kernel

/-- T40. -/
theorem test_fmtEnc : answer (exec (.fmtEnc 8) State.reset) = some 0x77C4#32 ∧
    answer (exec (.fmtEnc 32) State.reset) = some 0x11000000#32 := by decide +kernel

/-- T44. -/
theorem test_qrInit : (after (exec .qrInit State.reset)).map (fun t => (rowValue t.mod 6, rowValue t.func 6, t.qrst)) =
    some (0x1FD57F, 0x1FFFFF, 0b001) := by decide +kernel

/-- T45: all codewords 0 leave the bare checkerboard. -/
theorem test_qrData : (after (exec .qrData started)).map (fun t => (rowValue t.mod 0, rowValue t.mod 8, t.qrst)) =
    some (0x1FD47F, 0x001440, 0b011) := by decide +kernel
theorem test_qrData_seq : answer (exec .qrData State.reset) = some 0x12000000#32 ∧
    answer (exec .qrData (started.withQrst 0b011)) = some 0x12000000#32 := by decide +kernel

/-- R164's example: row 8 of strip A is 1 1 1 0 1 1 - 1 1, column 8 of strip B is 1 1 1 0 1 1 1 from the bottom. -/
theorem test_qrFmt : (after (exec (.qrFmt 0x77C4) started)).map (fun t =>
      ([0, 1, 2, 3, 4, 5, 7, 8].map fun x => t.mod.get ⟨x, 8⟩, [20, 19, 18, 17, 16, 15, 14].map fun y => t.mod.get ⟨8, y⟩)) =
    some ([true, true, true, false, true, true, true, true], [true, true, true, false, true, true, true]) := by decide +kernel
theorem test_qrFmt_seq : answer (exec (.qrFmt 0) State.reset) = some 0x12000000#32 ∧
    answer (exec (.qrFmt 0) (started.withQrst 0b101)) = some 0x12000000#32 := by decide +kernel

/-- R165's examples: row first. -/
theorem test_qrGet : answer (exec (.qrGet 13 8) started) = some 3#32 ∧ answer (exec (.qrGet 8 13) started) = some 2#32 := by
  decide +kernel
theorem test_qrGet_range : answer (exec (.qrGet 21 0) State.reset) = some 0x11000000#32 ∧
    answer (exec (.qrGet 0 21) State.reset) = some 0x11000000#32 := by decide +kernel

/-- R166's examples. -/
theorem test_qrRow : answer (exec (.qrRow 0 0) started) = some 0x001FC07F#32 ∧ answer (exec (.qrRow 0 1) started) = some 0x001FE1FF#32 := by
  decide +kernel
theorem test_qrRow_range : answer (exec (.qrRow 0 2) State.reset) = some 0x11000000#32 ∧
    answer (exec (.qrRow 21 0) State.reset) = some 0x11000000#32 := by decide +kernel

/-! ## The host procedures -/

/-- The two words AW gives, and 254 made-up ones. -/
def wordList : List Text :=
  ['e', 'm', 'b', 'e', 'r'] :: ['l', 'a', 's', 'e', 'r'] ::
    (List.range 254).map fun n => ['w', 'w', 'w', Char.ofNat (0x61 + n / 16), Char.ofNat (0x61 + n % 16)]

/-- A word read as one number, for telling 256 words apart: the list above rises. -/
def wordNumber (w : Text) : Nat := w.foldl (fun n c => 256 * n + c.toNat) 0

theorem wordList_nodup : wordList.Nodup := by
  have h : (wordList.map wordNumber).IsChain (· < ·) := by decide +kernel
  exact List.Nodup.of_map wordNumber ((List.isChain_iff_pairwise.mp h).imp Nat.ne_of_lt)

theorem test_dictionary_accepted : dictionaryOk wordList = true := by
  have h : (wordList.length == Config.wordCount && wordList.all wordShape) = true := by decide +kernel
  simp only [Bool.and_eq_true] at h
  simp only [dictionaryOk, h.1, h.2, decide_eq_true wordList_nodup, Bool.and_self]

/-- R181: a short list and a repeated word are fatal. -/
theorem test_dictionary_refused : dictionaryOk (wordList.take 255) = false ∧
    dictionaryOk (['l', 'a', 's', 'e', 'r'] :: wordList.drop 1) = false :=
  ⟨by decide +kernel, by simp [dictionaryOk, wordList]⟩

def dictionary : Dictionary := ⟨wordList, test_dictionary_accepted⟩

def goldenId : Identifier := #v[0, 1, 2, 3, 4, 5, 6]

/-- R186: `ember-laser-081g81864`. -/
def goldenCode : Text :=
  ['e', 'm', 'b', 'e', 'r', '-', 'l', 'a', 's', 'e', 'r', '-', '0', '8', '1', 'g', '8', '1', '8', '6', '4']

theorem test_golden_string : encodeId dictionary goldenId = goldenCode := by decide +kernel

/-- T5, T6, T4. -/
theorem test_decode_confusables : decodeId CodecOptions.standard dictionary
    ['E', 'm', 'b', 'e', 'r', 'L', 'A', 's', 'e', 'r', ' ', 'o', '8', 'i', 'g', '8', 'l', '8', '6'] = .ok ⟨goldenId, false⟩ := by
  decide +kernel
theorem test_decode_mismatch : decodeId CodecOptions.standard dictionary (goldenCode.dropLast ++ ['5']) = .error .checksumMismatch ∧
    decodeId ⟨false, asciiAlnumChar⟩ dictionary (goldenCode.dropLast ++ ['u']) = .error .invalidFormat := by decide +kernel

/-- R190's example. -/
theorem test_pack : pack ['H', 'e', 'l', 'l', 'o', ' ', 'w', 'o', 'r', 'l', 'd'] = .ok hello := by decide +kernel

/-! ## The written form -/

/-- R68's examples: `GF.MUL 0x57, 0x83`, `QR.FMT 0x77C4`, `B32.VAL 'o'` and `RS.ENC` with a comment. -/
theorem test_assemble :
    assemble ['G', 'F', '.', 'M', 'U', 'L', ' ', '0', 'x', '5', '7', ',', ' ', '0', 'x', '8', '3'] = some 0x32578300#32 ∧
    assemble ['Q', 'R', '.', 'F', 'M', 'T', ' ', '0', 'x', '7', '7', 'C', '4'] = some 0x620077C4#32 ∧
    assemble ['B', '3', '2', '.', 'V', 'A', 'L', ' ', '\'', 'o', '\''] = some 0x136F0000#32 ∧
    assemble ['R', 'S', '.', 'E', 'N', 'C', ' ', ';', ' ', 'x'] = some 0x41000000#32 ∧
    assemble ['B', '3', '2', '.', 'V', 'A', 'L', ' ', '\'', ';', '\''] = some 0x133B0000#32 ∧
    assemble ['B', '3', '2', '.', 'S', 'Y', 'M', ' ', '2', '5', '6'] = none := by decide +kernel

theorem test_writeCommand : writeCommand (.bufWr 0x20 0xFF) =
    ['B', 'U', 'F', '.', 'W', 'R', ' ', '0', 'x', '2', '0', ',', ' ', '0', 'x', 'F', 'F'] := by decide +kernel

theorem test_writeResponse : writeResponse 0x11000000#32 = some ['-', '>', ' ', 'R', 'A', 'N', 'G', 'E'] ∧
    writeResponse 0x00000031#32 = some ['-', '>', ' ', 'O', 'K', ' ', '0', 'x', '0', '0', '0', '0', '3', '1'] ∧
    writeResponse 0xFF000000#32 = none := by decide +kernel

/-! ## Witnesses: for each statement with hypotheses, a concrete input that meets them, at both ends of each clause's range -/

/-- DecodeReadsBackEveryEncoding. -/
theorem test_witness_wellFormed : (Instr.bufWr 0 0xFF).wf = true ∧ (Instr.qrRow 255 255).wf = true ∧ (Instr.qrFmt 0x7FFF).wf = true := by
  decide

/-- DecodedWordIsItsEncoding, EveryWordMatchesOneRowOrNone. -/
theorem test_witness_decoded : decode 0x64FFFF00#32 = .ok (.qrRow 255 255) ∧ rowAB 0x64 ∈ opcodeTable ∧
    (rowAB 0x64).matches 0x64FFFF00#32 = true ∧ decode 0xFF000000#32 = .error .unknownOp := by decide

/-- IllegalWordAnswersIllegalCmd: an unknown opcode, and a must-be-zero bit. -/
theorem test_witness_illegal :
    (offered [0xFF000000]).commands[(offered [0xFF000000]).pc]? = some 0xFF000000#32 ∧
    (∀ r ∈ opcodeTable, r.matches 0xFF000000#32 = false) ∧
    (offered [0x62008000]).commands[(offered [0x62008000]).pc]? = some 0x62008000#32 ∧
    (∀ r ∈ opcodeTable, r.matches 0x62008000#32 = false) := by decide

/-- StepRunsTheDecodedCommand. -/
theorem test_witness_step : (offered [0x32578300]).commands[(offered [0x32578300]).pc]? = some 0x32578300#32 ∧
    decode 0x32578300#32 = .ok (.gfMul 0x57 0x83) := by decide

/-- StepWithoutCommandChangesNothing. -/
theorem test_witness_noCommand : State.reset.commands[State.reset.pc]? = none := by decide

/-- BufWriteStoresOneByte, BufReadAnswersTheByte: both ends of each region, and of each gap. -/
theorem test_witness_addresses :
    (∀ a ∈ [0x00, 0x19, 0x20, 0x33, 0x40, 0x5F], a < 256 ∧ (a ≤ 0x19 ∨ (0x20 ≤ a ∧ a ≤ 0x33) ∨ (0x40 ≤ a ∧ a ≤ 0x5F))) ∧
    (∀ a ∈ [0x1A, 0x1F, 0x34, 0x3F, 0x60, 0xFF], a < 256 ∧ ¬ (a ≤ 0x19 ∨ (0x20 ≤ a ∧ a ≤ 0x33) ∨ (0x40 ≤ a ∧ a ≤ 0x5F))) := by
  decide

/-- CsrReadAnswersIdAndStage. -/
theorem test_witness_csr : 2 ≤ 2 ∧ 2 ≤ 255 ∧ 255 < 256 := by decide

/-- Base32EncodeWritesTheSymbols, Base32RoundTripOnThePort, Ck5AnswersTheChecksum: the longest range at each end, the shortest
beyond it; the last symbol and bit; the bytes beside the symbols. -/
theorem test_witness_ranges : 0 + 20 ≤ 20 ∧ 20 + 0 ≤ 20 ∧ 20 < 20 + 1 ∧ 20 < 255 + 255 ∧ 31 < (8 * 20 + 4) / 5 ∧ 4 < 5 ∧
    ¬ (0x40 ≤ 0x3F ∧ 0x3F < 0x40 + (8 * 5 + 4) / 5) ∧ ¬ (0x40 ≤ 0x48 ∧ 0x48 < 0x40 + (8 * 5 + 4) / 5) := by decide

/-- Base32DecodeWritesTheBytes: 32 characters kept, 20 bytes; 33 characters; the bytes beside those written. -/
theorem test_witness_b32Dec :
    5 * (((List.range 32).map (holding 0x40 (List.replicate 32 0x30)).syms).filter asciiAlnum).length / 8 = 20 ∧ 19 < 20 ∧ 32 ≤ 32 ∧
    32 < 33 ∧ ¬ (0x20 ≤ 0x1F ∧ 0x1F < 0x20 + 20) ∧ ¬ (0x20 ≤ 0x34 ∧ 0x34 < 0x20 + 20) := by decide +kernel

/-- Base32SymbolIsTheAlphabet: the values beside each break of the alphabet, as T13 lists their codes. -/
theorem test_witness_b32Sym : ([0, 9, 10, 17, 18, 19, 20, 21, 22, 26, 27, 31].map fun v => answer (exec (.b32Sym v) State.reset)) =
    [some 0x30, some 0x39, some 0x41, some 0x48, some 0x4A, some 0x4B, some 0x4D, some 0x4E, some 0x50, some 0x54, some 0x56, some 0x5A] := by
  decide +kernel

/-- Base32ValueIsTolerant: the first and last symbols, small letters, and the codes beside the digits and letters. -/
theorem test_witness_b32Val : (0x30#8 = alphabetCode 0) ∧ (0x5A#8 = alphabetCode 31) ∧ (10 ≤ 31 ∧ 0x7A#8 = alphabetCode 31 + 0x20) ∧
    (10 ≤ 10 ∧ 0x61#8 = alphabetCode 10 + 0x20) ∧
    (∀ ch ∈ ([0x2F, 0x3A, 0x40, 0x5B, 0x60, 0x7B, 0xFF] : List Byte), ¬ ((0x30 ≤ ch.toNat ∧ ch.toNat ≤ 0x39) ∨
      (0x41 ≤ ch.toNat ∧ ch.toNat ≤ 0x5A) ∨ (0x61 ≤ ch.toNat ∧ ch.toNat ≤ 0x7A))) := by decide

/-- Base32DecodeTolerance. -/
theorem test_witness_tolerance : asciiAlnum 0x2D = false ∧ asciiAlnum 0xFF = false ∧ 0x41 ≤ (0x41#8).toNat ∧ (0x5A#8).toNat ≤ 0x5A := by
  decide

/-- ExpAndLogTables, GfExpAnswersThePower, GfLogAnswersTheExponent. -/
theorem test_witness_field : (254 < 255) ∧ expTable 254 = expTable 254 ∧ 255 < 256 ∧ (0xFF#8 ≠ 0) ∧ (0x00#8 = 0) := by decide

/-- RsGenAnswersTheCoefficient, RsSynAnswersTheSyndrome, FmtEncAnswersTheBchWord: the last legal index, the first illegal. -/
theorem test_witness_indices : (7 ≤ 7 ∧ 7 < 8) ∧ (6 ≤ 6 ∧ 6 < 7) ∧ (31 ≤ 31 ∧ 31 < 32) ∧ 255 < 256 := by decide

/-- RsEncStoresTheRemainder: the bytes beside the check codewords. -/
theorem test_witness_rsEnc : 6 < 7 ∧ ¬ (0x13 ≤ 0x12 ∧ 0x12 ≤ 0x19) ∧ ¬ (0x13 ≤ 0x1A ∧ 0x1A ≤ 0x19) := by decide

/-- RemainderIsLinear, FormatWordsFormTheTable. -/
theorem test_witness_linear : hello.length = (List.replicate 19 (0xFF : Byte)).length ∧ (0#5 ≠ 31#5) := by decide

/-- QrDataPlacesTheMaskedBits: a symbol started; the first and last cells of the table of R159, and no 209th; a function
module; both SEQ cases. -/
theorem test_witness_qrData :
    started.qrst.getLsbD 0 = true ∧ started.qrst.getLsbD 1 = false ∧ started.func = funcPattern ∧
    (dataOrder funcPattern)[0]? = some ⟨20, 20⟩ ∧ (dataOrder funcPattern)[207]? = some ⟨0, 12⟩ ∧ (dataOrder funcPattern)[208]? = none ∧
    isFunction ⟨8, 13⟩ = true ∧ State.reset.qrst.getLsbD 0 = false ∧ (started.withQrst 0b011).qrst.getLsbD 1 = true := by decide +kernel

/-- QrFmtWritesBothStrips: a symbol started; the ends of both strips; a module outside them; both SEQ cases. -/
theorem test_witness_qrFmt :
    started.qrst.getLsbD 0 = true ∧ started.qrst.getLsbD 2 = false ∧ stripA[0]? = some ⟨0, 8⟩ ∧ stripA[14]? = some ⟨8, 0⟩ ∧
    stripB[0]? = some ⟨8, 20⟩ ∧ stripB[14]? = some ⟨20, 8⟩ ∧ ⟨8, 13⟩ ∉ stripA ∧ ⟨8, 13⟩ ∉ stripB ∧
    State.reset.qrst.getLsbD 0 = false ∧ (started.withQrst 0b101).qrst.getLsbD 2 = true := by decide +kernel

/-- QrGetAnswersOneModule, QrRowAnswersOneRow: the last row and column, the first beyond, the last plane, the first beyond. -/
theorem test_witness_grid : (20 < 21) ∧ (20 < 21 ∨ 20 < 0) ∧ (20 < 0 ∨ 20 < 21) ∧ (20 < 0 ∨ 1 < 2) ∧ 255 < 256 ∧ 2 ≤ 2 ∧ 21 ≤ 21 := by
  decide

/-- CompleteSymbolChangesOnlyThroughInit. -/
theorem test_witness_complete : (started.withQrst 0b111).qrst = 0b111 ∧ Instr.qrData ≠ .qrInit ∧
    exec .qrData (started.withQrst 0b111) = .next ((started.withQrst 0b111).withResponse 0x12000000#32) :=
  ⟨rfl, by decide, rfl⟩

/-- FailedCommandChangesNothing: an illegal word, and a command out of range. -/
theorem test_witness_failed :
    perform 0xFF000000#32 State.reset = .next (State.reset.withResponse 0x10000000#32) ∧
    perform 0x12200000#32 State.reset = .next (State.reset.withResponse 0x11000000#32) ∧
    (State.reset.withResponse 0x11000000#32).responses = State.reset.responses ++ [0x11000000#32] ∧
    responseStatus 0x10000000#32 ≠ 0x00#8 ∧ responseStatus 0x11000000#32 ≠ 0x00#8 :=
  ⟨rfl, rfl, rfl, by decide, by decide⟩

/-- StatusesFollowTheTable, OnlyTheNamedCommandsWrite: a command that answers OK and one that fails. -/
theorem test_witness_exec : exec .nop State.reset = .next (State.reset.withResponse 0#32) ∧
    exec (.gfLog 0) State.reset = .next (State.reset.withResponse 0x02000000#32) ∧ (Claims.writesBuf .nop = false) ∧
    (Claims.writesSymbol .nop = false) ∧ Instr.nop ≠ .qrInit := ⟨rfl, rfl, rfl, rfl, by decide⟩

/-- ResultDependsOnTheBlockAlone: equal blocks, different bookkeeping. -/
theorem test_witness_sameBlock : State.reset.sameBlock (offered [0x00000000]) := ⟨rfl, rfl, rfl, rfl⟩

/-- RepeatedWritesLeaveTheSameState. -/
theorem test_witness_repeatable : (Claims.repeatable (.bufWr 0x19 0xAB) = true) ∧
    exec (.bufWr 0x19 0xAB) State.reset = .next ((holding 0x19 [0xAB]).withResponse 0#32) := ⟨rfl, rfl⟩

/-- StepKeepsTheBufferCanonical: bytes in all three regions, and a step. -/
theorem test_witness_wf : Memory.wf [(0x00, 0x01), (0x19, 0xAB), (0x20, 0x02), (0x5F, 0x7A)] ∧
    step (holding 0x19 [0xAB]) = .next (holding 0x19 [0xAB]) := ⟨by decide, rfl⟩

/-- StepKeepsTheSymbolLegal: a symbol started, and a step. -/
theorem test_witness_symbolLegal : started.symbolLegal ∧ step started = .next started := by
  have light : ∀ x y : Fin 21, onStrip ⟨x, y⟩ = true → isDarkAtInit ⟨x, y⟩ = false := by decide +kernel
  have strips : ∀ c : Coord, onStrip c = true → modPattern.get c = false := fun ⟨x, y⟩ h => by simpa using light x y h
  refine ⟨⟨.inr (.inl rfl), ?_, ?_, ?_, fun _ c h => strips c h⟩, rfl⟩
  · simp [State.functionLegal, State.initDone, started]
  · intro _ c _ _; simp [started]
  · intro k c d hc hd
    have h1 : onStrip c = true := by simp [onStrip, List.mem_of_getElem? hc]
    have h2 : onStrip d = true := by simp [onStrip, List.mem_of_getElem? hd]
    exact (strips c h1).trans (strips d h2).symm

/-- StepKeepsOneResponsePerCommand: one command waits. -/
theorem test_witness_portLegal : (offered [0x00000000]).portLegal ∧ (offered [0x00000000]).pc < (offered [0x00000000]).commands.length ∧
    step (offered [0x00000000]) = .next ((offered [0x00000000]).tick.withResponse 0#32) := ⟨⟨rfl, by decide⟩, by decide, rfl⟩

/-- PackGivesNineteenCodewords: a character outside the alphabet; 26 letters; 25 letters. -/
theorem test_witness_pack : (∃ c ∈ ['a', '!'], upperChar c ∉ packAlphabet) ∧
    (∀ c ∈ List.replicate 26 'a', upperChar c ∈ packAlphabet) ∧ 26 ≤ (List.replicate 26 'a').length ∧
    (List.replicate 25 'a').length ≤ 25 := by
  have h1 : packAlphabet.contains (upperChar '!') = false := by decide +kernel
  have h2 : packAlphabet.contains (upperChar 'a') = true := by decide +kernel
  refine ⟨⟨'!', by simp, fun h => ?_⟩, fun c hc => ?_, by simp, by simp⟩
  · exact absurd (List.contains_iff_mem.mpr h) (by rw [h1]; decide)
  · rw [List.eq_of_mem_replicate hc]; exact List.contains_iff_mem.mp h2

/-- EncodeOnTheBlockIsEncode, DecodeOnTheBlockIsDecode, IdentifierCodecRoundTrip: a dictionary that meets R181. -/
theorem test_witness_dictionary : dictionaryOk dictionary.words = true := dictionary.ok

end Sys2Proof.Tests
end

section
/-! The command port in one step (00_scope.md R3, 10_state.md R21, 30_encoding.md R63, R65): which meaning a step runs, and
what it does to the host's list, the index and the responses. -/

namespace Sys2Proof.Machine

/-! ### Which meaning a step runs -/

theorem perform_of_decode {w : Word32} {i : Instr} (h : decode w = .ok i) (s : State) : perform w s = exec i s := by
  simp only [perform, h]

theorem step_of_nextCommand {s : State} {w : Word32} (h : nextCommand s = some w) : step s = perform w s.tick := by
  simp only [step, h]

theorem nextCommand_eq_none_iff {s : State} : nextCommand s = none ↔ s.commands.length ≤ s.pc :=
  List.getElem?_eq_none_iff

theorem pc_lt_of_nextCommand {s : State} {w : Word32} (h : nextCommand s = some w) : s.pc < s.commands.length :=
  (List.getElem?_eq_some_iff.mp h).1

/-! ### What a command and a step do to the port's bookkeeping -/

/-- A command's whole effect on the bookkeeping: the list and the index stay and one response is added (R63). -/
structure AnswersOnce (s t : State) : Prop where
  commands : t.commands = s.commands
  pc : t.pc = s.pc
  responses : ∃ r, t.responses = s.responses ++ [r]

/-- Whichever way a command ends, it answers once: every update before the response leaves the port alone. -/
theorem Ends.answersOnce {i : Instr} {s t : State} (h : Ends i s t) : AnswersOnce s t := by
  cases h with
  | answered st v h => subst h; constructor <;> simp
  | stored base bs v h => subst h; constructor <;> simp
  | drawn _ h => subst h; constructor <;> simp
  | placed _ _ _ h => subst h; constructor <;> simp
  | formatted w _ _ _ h => subst h; constructor <;> simp

/-- What a step does to the port: nothing where no command waits; else the accepted command, legal or not, is answered
once in the state whose index has moved on. -/
theorem step_port {s t : State} (h : step s = .next t) :
    (s.commands.length ≤ s.pc ∧ t = s) ∨ (s.pc < s.commands.length ∧ AnswersOnce s.tick t) := by
  obtain ⟨hnone, rfl⟩ | ⟨w, i, hw, -, hexec⟩ | ⟨w, e, hw, -, rfl⟩ := step_cases h
  · exact .inl ⟨nextCommand_eq_none_iff.mp hnone, rfl⟩
  · exact .inr ⟨pc_lt_of_nextCommand hw, (exec_ends hexec).answersOnce⟩
  · exact .inr ⟨pc_lt_of_nextCommand hw, by constructor <;> simp⟩

/-- Accepting a waiting command and answering it once keeps the port legal: index and responses grow together, and the
index does not pass the end of the list. -/
theorem AnswersOnce.portLegal_of_tick {s t : State} (ha : AnswersOnce s.tick t) (hs : s.portLegal)
    (hlt : s.pc < s.commands.length) : t.portLegal := by
  obtain ⟨hlen, -⟩ := hs
  obtain ⟨hcommands, hpc, r, hresponses⟩ := ha
  constructor
  · rw [hresponses, hpc, State.tick_responses, State.tick_pc, List.length_append, List.length_singleton, hlen]
  · rw [hpc, hcommands, State.tick_pc, State.tick_commands]
    exact hlt

end Sys2Proof.Machine
end

section
/-! The statements of 00_scope.md about the command port. -/

namespace Sys2Proof.Proofs.Scope

open Sys2Proof Sys2Proof.Machine

/-- Settles O5: the step performs the waiting word on the ticked state, and performing a word that decodes is its
instruction's meaning. -/
theorem stepRunsTheDecodedCommand : Obligations.StepRunsTheDecodedCommand := by
  intro s w i hw hi
  calc step s = perform w s.tick := step_of_nextCommand hw
    _ = exec i s.tick := perform_of_decode hi s.tick

/-- Settles O55, by what one step does to the port: nothing, or one accepted command answered once. -/
theorem stepKeepsOneResponsePerCommand : Obligations.StepKeepsOneResponsePerCommand := by
  intro s t hs hstep
  obtain ⟨hle, rfl⟩ | ⟨hlt, ha⟩ := step_port hstep
  · exact ⟨hs, rfl, fun hlt => absurd hlt (Nat.not_lt.mpr hle)⟩
  · exact ⟨ha.portLegal_of_tick hs hlt, ha.commands, fun _ => ha.pc⟩

end Sys2Proof.Proofs.Scope
end

section
/-! What reset, `QR.INIT`, `QR.DATA` and `QR.FMT` make of the stage and of the cells (10_state.md R28, R30;
46_qr_placement.md R155 to R164). -/

namespace Sys2Proof.Machine

/-! ### The stage bits (R28) -/

@[simp] theorem State.withQrst_initDone (s : State) (q : BitVec 3) : (s.withQrst q).initDone = q.getLsbD 0 := rfl
@[simp] theorem State.withQrst_fmtDone (s : State) (q : BitVec 3) : (s.withQrst q).fmtDone = q.getLsbD 2 := rfl

theorem setDataDone_getLsbD_zero (q : BitVec 3) : (setDataDone q).getLsbD 0 = q.getLsbD 0 := by simp [setDataDone]
theorem setDataDone_getLsbD_two (q : BitVec 3) : (setDataDone q).getLsbD 2 = q.getLsbD 2 := by simp [setDataDone]
theorem setFmtDone_getLsbD_zero (q : BitVec 3) : (setFmtDone q).getLsbD 0 = q.getLsbD 0 := by simp [setFmtDone]
theorem setFmtDone_getLsbD_two (q : BitVec 3) : (setFmtDone q).getLsbD 2 = true := by simp [setFmtDone]

/-- Of the five stages the four with INIT_DONE set are those other than 0b000. -/
theorem State.stageLegal.of_initDone {s : State} (hs : s.stageLegal) (hinit : s.initDone = true) :
    s.qrst = 0b001 ∨ s.qrst = 0b011 ∨ s.qrst = 0b101 ∨ s.qrst = 0b111 := by
  obtain hzero | hstarted := hs
  · simp [State.initDone, hzero] at hinit
  · exact hstarted

/-! ### The strips (R155) and the cells `QR.FMT` writes (R163) -/

theorem onStrip_iff_mem {c : Coord} : onStrip c = true ↔ c ∈ stripA ++ stripB := by simp [onStrip]

theorem onStrip_of_stripA {c : Coord} {k : Nat} (h : stripA[k]? = some c) : onStrip c = true :=
  onStrip_iff_mem.mpr (List.mem_append_left _ (List.mem_of_getElem? h))

theorem onStrip_of_stripB {c : Coord} {k : Nat} (h : stripB[k]? = some c) : onStrip c = true :=
  onStrip_iff_mem.mpr (List.mem_append_right _ (List.mem_of_getElem? h))

/-- The thirty strip cells are distinct (R155, R158). -/
theorem strips_nodup : (stripA ++ stripB).Nodup := by decide

theorem isFunction_of_onStrip {c : Coord} (h : onStrip c = true) : isFunction c = true := by simp [isFunction, h]

/-- `QR.INIT` leaves every strip cell light (R155, R161). -/
theorem isDarkAtInit_of_onStrip {c : Coord} (h : onStrip c = true) : isDarkAtInit c = false := by
  have hlight : ∀ d ∈ stripA ++ stripB, isDarkAtInit d = false := by decide
  exact hlight c (onStrip_iff_mem.mp h)

theorem formatWrites_cells (w : FormatWord) : (formatWrites w).map Prod.fst = stripA ++ stripB := by
  rw [formatWrites, List.map_append, List.map_fst_zip (by simp [stripA]), List.map_fst_zip (by simp [stripB])]

theorem get_putAll_formatWrites_of_not_onStrip (p : Plane) (w : FormatWord) {c : Coord} (h : onStrip c = false) :
    (p.putAll (formatWrites w)).get c = p.get c := by
  refine Plane.get_putAll_of_not_mem _ _ _ fun hmem => ?_
  rw [formatWrites_cells] at hmem
  simp [onStrip_iff_mem.mpr hmem] at h

/-- Index `k` of either strip takes bit 14 - k of the format word. -/
theorem get_putAll_formatWrites_of_strip (p : Plane) (w : FormatWord) {k : Nat} {c : Coord}
    (h : stripA[k]? = some c ∨ stripB[k]? = some c) :
    (p.putAll (formatWrites w)).get c = w.toNat.testBit (14 - k) := by
  refine Plane.get_putAll_of_mem _ _ _ _ (formatWrites_cells w ▸ strips_nodup) ?_
  have hzip {strip : List Coord} (hlen : strip.length = 15) (hk : strip[k]? = some c) :
      (c, w.toNat.testBit (14 - k)) ∈ strip.zip (bitsOf 15 w.toNat) := by
    have hlt : k < 15 := hlen ▸ (List.getElem?_eq_some_iff.mp hk).1
    exact List.mem_of_getElem? (List.getElem?_zip_eq_some.mpr ⟨hk, by rw [bitsOf_getElem?, if_pos hlt]⟩)
  exact List.mem_append.mpr (h.imp (hzip rfl) (hzip rfl))

/-! ### The cells `QR.DATA` writes (R159, R162) -/

theorem func_get_of_mem_scanPairs {func : Plane} {c : Coord} (pairs : List (Fin 21 × Fin 21)) :
    ∀ upward, c ∈ scanPairs func upward pairs → func.get c = false := by
  induction pairs with
  | nil => intro upward h; simp [scanPairs] at h
  | cons pair rest ih =>
    intro upward h
    obtain hpair | hrest := List.mem_append.mp h
    · simpa using (List.mem_filter.mp hpair).2
    · exact ih _ hrest

/-- The data order passes over every cell with FUNC = 1. -/
theorem func_get_of_mem_dataOrder {func : Plane} {c : Coord} (h : c ∈ dataOrder func) : func.get c = false :=
  func_get_of_mem_scanPairs _ _ h

theorem mem_dataOrder_of_mem_dataWrites {func : Plane} {codewords : List Byte} {write : Coord × Bool}
    (h : write ∈ dataWrites func codewords) : write.1 ∈ dataOrder func := by
  obtain ⟨n, hn⟩ := List.mem_iff_getElem?.mp h
  obtain ⟨c, b, hc, -, rfl⟩ := List.getElem?_zipWith_eq_some.mp hn
  exact List.mem_of_getElem? hc

theorem get_putAll_dataWrites_of_func (p func : Plane) (codewords : List Byte) {c : Coord} (h : func.get c = true) :
    (p.putAll (dataWrites func codewords)).get c = p.get c := by
  refine Plane.get_putAll_of_not_mem _ _ _ fun hmem => ?_
  obtain ⟨write, hwrite, rfl⟩ := List.mem_map.mp hmem
  simp [func_get_of_mem_dataOrder (mem_dataOrder_of_mem_dataWrites hwrite)] at h

/-! ### Reset (R30) -/

theorem State.reset_symbolLegal : State.reset.symbolLegal where
  stage := .inl rfl
  function := by simp [State.functionLegal, State.initDone]
  patterns := by simp [State.patternsIntact, State.initDone]
  agree := by simp [State.stripsAgree]
  light := by simp [State.stripsLight]

theorem State.reset_portLegal : State.reset.portLegal := by simp [State.portLegal]

end Sys2Proof.Machine
end

section
/-! Each way a command can end keeps the symbol legal (10_state.md R28; 46_qr_placement.md R155, R163, R167). -/

namespace Sys2Proof.Machine

/-- In a started legal symbol FUNC is the drawn plane (R167 a). -/
theorem State.symbolLegal.func_eq {s : State} (hs : s.symbolLegal) (hinit : s.initDone = true) : s.func = funcPattern := by
  simpa [State.functionLegal, hinit] using hs.function

/-- The invariant speaks of MOD, FUNC and QRST only. -/
theorem State.symbolLegal.of_symbol_eq {s t : State} (hs : s.symbolLegal) (hmod : t.mod = s.mod) (hfunc : t.func = s.func)
    (hqrst : t.qrst = s.qrst) : t.symbolLegal := by
  have hinit : t.initDone = s.initDone := congrArg (·.getLsbD 0) hqrst
  have hfmt : t.fmtDone = s.fmtDone := congrArg (·.getLsbD 2) hqrst
  constructor
  case stage => simpa only [State.stageLegal, hqrst] using hs.stage
  case function => simpa only [State.functionLegal, hinit, hmod, hfunc] using hs.function
  case patterns => simpa only [State.patternsIntact, hinit, hmod] using hs.patterns
  case agree => simpa only [State.stripsAgree, hmod] using hs.agree
  case light => simpa only [State.stripsLight, hfmt, hmod] using hs.light

theorem State.symbolLegal.withResponse {s : State} (hs : s.symbolLegal) (w : Word32) : (s.withResponse w).symbolLegal :=
  hs.of_symbol_eq rfl rfl rfl

theorem State.symbolLegal.withBuf {s : State} (hs : s.symbolLegal) (m : Memory) : (s.withBuf m).symbolLegal :=
  hs.of_symbol_eq rfl rfl rfl

theorem State.symbolLegal.tick {s : State} (hs : s.symbolLegal) : s.tick.symbolLegal :=
  hs.of_symbol_eq rfl rfl rfl

/-- `QR.INIT` makes the symbol legal whatever it was before (R161). -/
theorem symbolLegal_drawn (s : State) :
    (((s.withMod modPattern).withFunc funcPattern).withQrst stageInit).symbolLegal where
  stage := .inr (.inl rfl)
  function := by simp [State.functionLegal, stageInit]
  patterns := by simp [State.patternsIntact]
  agree := fun k c d hc hd => by
    simp [isDarkAtInit_of_onStrip (onStrip_of_stripA hc), isDarkAtInit_of_onStrip (onStrip_of_stripB hd)]
  light := fun _ c hc => by simp [isDarkAtInit_of_onStrip hc]

/-- `QR.DATA` writes no function cell, so patterns and strips stay as they are (R162). -/
theorem State.symbolLegal.placed {s : State} (hs : s.symbolLegal) (hinit : s.initDone = true) (codewords : List Byte) :
    ((s.withMod (s.mod.putAll (dataWrites s.func codewords))).withQrst (setDataDone s.qrst)).symbolLegal := by
  have hfunc := hs.func_eq hinit
  have hkept (c : Coord) (hc : isFunction c = true) :
      (s.mod.putAll (dataWrites s.func codewords)).get c = s.mod.get c :=
    get_putAll_dataWrites_of_func _ _ _ (by simpa [hfunc] using hc)
  have hstrip (c : Coord) (hc : onStrip c = true) := hkept c (isFunction_of_onStrip hc)
  constructor
  case stage =>
    obtain hq | hq | hq | hq := hs.stage.of_initDone hinit <;> simp [State.stageLegal, hq, setDataDone]
  case function =>
    have hinit' : s.qrst.getLsbD 0 = true := hinit
    simp [State.functionLegal, setDataDone_getLsbD_zero, hinit', hfunc]
  case patterns =>
    intro _ c hc hoff
    exact (hkept c hc).trans (hs.patterns hinit c hc hoff)
  case agree =>
    intro k c d hc hd
    calc (s.mod.putAll (dataWrites s.func codewords)).get c
        = s.mod.get c := hstrip c (onStrip_of_stripA hc)
      _ = s.mod.get d := hs.agree k c d hc hd
      _ = (s.mod.putAll (dataWrites s.func codewords)).get d := (hstrip d (onStrip_of_stripB hd)).symm
  case light =>
    intro hfmt c hc
    rw [State.withQrst_fmtDone, setDataDone_getLsbD_two] at hfmt
    exact (hstrip c hc).trans (hs.light hfmt c hc)

/-- `QR.FMT` writes the strips only, the same bit at one index of both (R163, R164). -/
theorem State.symbolLegal.formatted {s : State} (hs : s.symbolLegal) (hinit : s.initDone = true) (w : FormatWord) :
    ((s.withMod (s.mod.putAll (formatWrites w))).withQrst (setFmtDone s.qrst)).symbolLegal := by
  constructor
  case stage =>
    obtain hq | hq | hq | hq := hs.stage.of_initDone hinit <;> simp [State.stageLegal, hq, setFmtDone]
  case function =>
    have hinit' : s.qrst.getLsbD 0 = true := hinit
    simp [State.functionLegal, setFmtDone_getLsbD_zero, hinit', hs.func_eq hinit]
  case patterns =>
    intro _ c hc hoff
    exact (get_putAll_formatWrites_of_not_onStrip _ _ hoff).trans (hs.patterns hinit c hc hoff)
  case agree =>
    intro k c d hc hd
    exact (get_putAll_formatWrites_of_strip _ _ (.inl hc)).trans (get_putAll_formatWrites_of_strip _ _ (.inr hd)).symm
  case light =>
    intro hfmt
    rw [State.withQrst_fmtDone, setFmtDone_getLsbD_two] at hfmt
    exact absurd hfmt (by simp)

/-- Every command keeps the symbol legal, however it ends. -/
theorem Ends.symbolLegal {i : Instr} {s t : State} (h : Ends i s t) (hs : s.symbolLegal) : t.symbolLegal := by
  cases h with
  | answered st v h => exact h ▸ hs.withResponse _
  | stored base bs v h => exact h ▸ (hs.withBuf _).withResponse _
  | drawn _ h => exact h ▸ (symbolLegal_drawn s).withResponse _
  | placed _ hinit _ h => exact h ▸ (hs.placed hinit _).withResponse _
  | formatted w _ hinit _ h => exact h ▸ (hs.formatted hinit w).withResponse _

end Sys2Proof.Machine
end

section
/-! A command does the same in two states that hold the same block (10_state.md R20, R22). -/

namespace Sys2Proof.Machine

namespace State.sameBlock

variable {s s' : State} (h : s.sameBlock s')
include h

theorem buf : s.buf = s'.buf := let ⟨hbuf, _, _, _⟩ := h; hbuf
theorem mod : s.mod = s'.mod := let ⟨_, hmod, _, _⟩ := h; hmod
theorem func : s.func = s'.func := let ⟨_, _, hfunc, _⟩ := h; hfunc
theorem qrst : s.qrst = s'.qrst := let ⟨_, _, _, hqrst⟩ := h; hqrst

theorem initDone : s.initDone = s'.initDone := by rw [State.initDone, h.qrst, State.initDone]
theorem dataDone : s.dataDone = s'.dataDone := by rw [State.dataDone, h.qrst, State.dataDone]
theorem fmtDone : s.fmtDone = s'.fmtDone := by rw [State.fmtDone, h.qrst, State.fmtDone]

theorem cwList (n : Nat) : s.cwList n = s'.cwList n := by rw [State.cwList, h.buf, State.cwList]
theorem symsList (n : Nat) : s.symsList n = s'.symsList n := by rw [State.symsList, h.buf, State.symsList]
theorem bytesList (off len : Nat) : s.bytesList off len = s'.bytesList off len := by
  rw [State.bytesList, h.buf, State.bytesList]

theorem moduleValue (c : Coord) : moduleValue s c = Machine.moduleValue s' c := by
  rw [Machine.moduleValue, h.mod, h.func, Machine.moduleValue]

theorem csrValue (idx : Nat) : csrValue idx s = Machine.csrValue idx s' := by
  unfold Machine.csrValue; rw [h.qrst]

theorem withBuf (m : Memory) : (s.withBuf m).sameBlock (s'.withBuf m) := ⟨rfl, h.mod, h.func, h.qrst⟩
theorem withMod (p : Plane) : (s.withMod p).sameBlock (s'.withMod p) := ⟨h.buf, rfl, h.func, h.qrst⟩
theorem withFunc (p : Plane) : (s.withFunc p).sameBlock (s'.withFunc p) := ⟨h.buf, h.mod, rfl, h.qrst⟩
theorem withQrst (q : BitVec 3) : (s.withQrst q).sameBlock (s'.withQrst q) := ⟨h.buf, h.mod, h.func, rfl⟩
theorem withResponse (w : Word32) : (s.withResponse w).sameBlock (s'.withResponse w) := h

end State.sameBlock

/-- Two outcomes, of a command in `s` and in `s'`: the same response word added, and the same block after it. -/
def AnswersAlike (s s' : State) (o o' : Host.Outcome State Fault Refusal) : Prop :=
  ∃ t t' w, o = .next t ∧ o' = .next t' ∧ t.sameBlock t' ∧
    t.responses = s.responses ++ [w] ∧ t'.responses = s'.responses ++ [w]

namespace AnswersAlike

variable {s s' : State}

/-- A response after updates that leave the same block and give no response themselves. -/
theorem updated {u u' : State} (h : u.sameBlock u') (hu : u.responses = s.responses) (hu' : u'.responses = s'.responses)
    (v : Value) : AnswersAlike s s' (respond v u) (respond v u') :=
  ⟨_, _, _, respond_eq v u, respond_eq v u', h.withResponse _,
    congrArg (· ++ _) hu, congrArg (· ++ _) hu'⟩

theorem answered (h : s.sameBlock s') (v : Value) : AnswersAlike s s' (respond v s) (respond v s') :=
  updated h rfl rfl v

theorem stored (h : s.sameBlock s') (m : Memory) (v : Value) :
    AnswersAlike s s' (respond v (s.withBuf m)) (respond v (s'.withBuf m)) :=
  updated (h.withBuf m) (State.withBuf_responses s m) (State.withBuf_responses s' m) v

theorem redrawn (h : s.sameBlock s') (p : Plane) (q : BitVec 3) (v : Value) :
    AnswersAlike s s' (respond v ((s.withMod p).withQrst q)) (respond v ((s'.withMod p).withQrst q)) :=
  updated ((h.withMod p).withQrst q) (by simp) (by simp) v

theorem raised (h : s.sameBlock s') (st : Status) : AnswersAlike s s' (raise st s) (raise st s') :=
  ⟨_, _, _, raise_eq st s, raise_eq st s', h.withResponse _, rfl, rfl⟩

/-- A condition on which the two states agree. -/
theorem ite {p : Prop} [Decidable p] {a b a' b' : Host.Outcome State Fault Refusal} (ha : AnswersAlike s s' a a')
    (hb : AnswersAlike s s' b b') : AnswersAlike s s' (if p then a else b) (if p then a' else b') := by
  split
  · exact ha
  · exact hb

end AnswersAlike

/-- Every meaning reads BUF, MOD, FUNC and QRST alone and writes the same to both states. -/
theorem exec_answersAlike {s s' : State} (h : s.sameBlock s') (i : Instr) : AnswersAlike s s' (exec i s) (exec i s') := by
  cases i with
  | nop => exact .answered h 0
  | bufWr addr data =>
    simp only [exec, execBufWr, h.buf]
    exact .ite (.stored h _ _) (.raised h _)
  | bufRd addr =>
    simp only [exec, execBufRd, h.buf]
    exact .ite (.answered h _) (.raised h _)
  | csrRd idx =>
    simp only [exec, execCsrRd, h.csrValue]
    cases csrValue idx s' with
    | some v => exact .answered h v
    | none => exact .raised h _
  | b32Enc off len =>
    simp only [exec, execB32Enc, h.buf, h.bytesList]
    exact .ite (.stored h _ _) (.raised h _)
  | b32Dec cnt =>
    simp only [exec, execB32Dec, h.buf, h.symsList]
    refine .ite ?_ (.raised h _)
    cases b32Decode asciiAlnum (s'.symsList cnt) with
    | some bytes => exact .stored h _ _
    | none => exact .raised h _
  | b32Sym v => exact .ite (.answered h _) (.raised h _)
  | b32Val ch =>
    simp only [exec, execB32Val]
    cases b32Value ch with
    | some v => exact .answered h _
    | none => exact .raised h _
  | ck5 off len =>
    simp only [exec, execCk5, h.bytesList]
    exact .ite (.answered h _) (.raised h _)
  | gfExp n => exact .answered h _
  | gfLog v =>
    simp only [exec, execGfLog]
    cases logTable v with
    | some n => exact .answered h _
    | none => exact .raised h _
  | gfMul x y => exact .answered h _
  | rsGen j => exact .ite (.answered h _) (.raised h _)
  | rsEnc =>
    simp only [exec, execRsEnc, h.buf, h.cwList]
    exact .stored h _ _
  | rsSyn n =>
    simp only [exec, execRsSyn, h.cwList]
    exact .ite (.answered h _) (.raised h _)
  | fmtEnc d => exact .ite (.answered h _) (.raised h _)
  | qrInit =>
    have hdrawn := ((h.withMod modPattern).withFunc funcPattern).withQrst stageInit
    exact .updated hdrawn (by simp) (by simp) 0
  | qrData =>
    simp only [exec, execQrData, h.initDone, h.dataDone, h.mod, h.func, h.qrst, h.cwList]
    exact .ite (.raised h _) (.redrawn h _ _ _)
  | qrFmt w =>
    simp only [exec, execQrFmt, h.initDone, h.fmtDone, h.mod, h.qrst]
    exact .ite (.raised h _) (.redrawn h _ _ _)
  | qrGet y x =>
    simp only [exec, execQrGet, h.moduleValue]
    split
    · exact .answered h _
    · exact .raised h _
  | qrRow y sel =>
    simp only [exec, execQrRow, h.mod, h.func]
    split
    · match sel with
      | 0 => exact .answered h _
      | 1 => exact .answered h _
      | _ + 2 => exact .raised h _
    · exact .raised h _

end Sys2Proof.Machine
end

section
/-! The statements of 10_state.md. -/

namespace Sys2Proof.Proofs.BlockState

open Sys2Proof Sys2Proof.Machine

/-- Settles O54: a step that accepts no command changes nothing, an illegal word only answers, and a decoded command ends in
one of the five ways, each of which keeps the symbol legal. -/
theorem stepKeepsTheSymbolLegal : Obligations.StepKeepsTheSymbolLegal := by
  intro s t hs hstep
  obtain ⟨-, rfl⟩ | ⟨w, i, -, -, hexec⟩ | ⟨w, e, -, -, rfl⟩ := step_cases hstep
  · exact hs
  · exact (exec_ends hexec).symbolLegal hs.tick
  · exact hs.tick.withResponse _

/-- Settles O48, command by command. -/
theorem resultDependsOnTheBlockAlone : Obligations.ResultDependsOnTheBlockAlone :=
  fun i _ _ h => exec_answersAlike h i

/-- Settles O51: nothing is listed in BUF, both planes are blank, and register 0 is ID. -/
theorem resetLeavesTheBlockZero : Obligations.ResetLeavesTheBlockZero :=
  ⟨fun _ => by simp, fun _ => by simp, State.reset_qrst, respond_eq idValue State.reset⟩

/-- Settles O52. -/
theorem resetIsLegal : Obligations.ResetIsLegal :=
  ⟨State.reset_wf, State.reset_symbolLegal, State.reset_portLegal⟩

end Sys2Proof.Proofs.BlockState
end

section
/-! Which part of the block each way a command can end writes (20_memory.md R45, R48), and that none of them brings the
buffer space out of its canonical form (R41). -/

namespace Sys2Proof.Machine

variable {i : Instr} {s t : State}

/-- All a command can do to the buffer space: nothing, or a range of writes by one of the four commands R45 names. -/
theorem Ends.buf_cases (h : Ends i s t) :
    t.buf = s.buf ∨ (Claims.writesBuf i = true ∧ ∃ base bs, t.buf = s.buf.writeRange base bs) := by
  cases h with
  | answered _ _ h => subst h; simp
  | stored base bs _ h hstores =>
    refine .inr ⟨?_, base, bs, by subst h; simp⟩
    obtain ⟨_, _, rfl⟩ | ⟨_, _, rfl⟩ | ⟨_, rfl⟩ | rfl := hstores <;> rfl
  | drawn _ h => subst h; simp
  | placed _ _ _ h => subst h; simp
  | formatted _ _ _ _ h => subst h; simp

theorem Ends.buf_wf (h : Ends i s t) (hs : s.buf.wf) : t.buf.wf := by
  obtain hsame | ⟨-, base, bs, hwritten⟩ := h.buf_cases
  · exact hsame ▸ hs
  · exact hwritten ▸ Memory.wf_writeRange bs hs base

theorem Ends.buf_eq (h : Ends i s t) (hi : Claims.writesBuf i = false) : t.buf = s.buf := by
  obtain hsame | ⟨hwrites, -⟩ := h.buf_cases
  · exact hsame
  · simp [hwrites] at hi

/-- Every update of MOD or QRST is one of the three QR commands'. -/
theorem Ends.symbol_eq (h : Ends i s t) (hi : Claims.writesSymbol i = false) : t.mod = s.mod ∧ t.qrst = s.qrst := by
  cases h with
  | answered _ _ h => subst h; exact ⟨rfl, rfl⟩
  | stored _ _ _ h => subst h; exact ⟨rfl, rfl⟩
  | drawn hinit => subst hinit; simp [Claims.writesSymbol] at hi
  | placed hdata => subst hdata; simp [Claims.writesSymbol] at hi
  | formatted _ hfmt => subst hfmt; simp [Claims.writesSymbol] at hi

theorem Ends.func_eq (h : Ends i s t) (hi : i ≠ .qrInit) : t.func = s.func := by
  cases h with
  | answered _ _ h => subst h; simp
  | stored _ _ _ h => subst h; simp
  | drawn hinit => exact absurd hinit hi
  | placed _ _ _ h => subst h; simp
  | formatted _ _ _ _ h => subst h; simp

end Sys2Proof.Machine
end

section
/-! A repeatable writing command run a second time (20_memory.md R46): what it reads lies outside what it has written
(R45), so it writes the same again, which changes no byte. -/

namespace Sys2Proof.Machine

/-! ### Ranges of the buffer space -/

/-- Storing the same bytes at the same place again changes no byte. -/
theorem Memory.read_writeRange_again (m : Memory) (base : Nat) (bs : List Byte) (a : Nat) :
    ((m.writeRange base bs).writeRange base bs).read a = (m.writeRange base bs).read a := by
  simp only [Memory.read_writeRange]
  split <;> rfl

/-- A range reads as before where the bytes stored lie wholly after or wholly before it. -/
theorem Memory.readRange_writeRange_of_disjoint (m : Memory) {start n base : Nat} {bs : List Byte}
    (h : start + n ≤ base ∨ base + bs.length ≤ start) :
    (m.writeRange base bs).readRange start n = m.readRange start n := by
  refine List.map_congr_left fun k hk => ?_
  have hlt : k < n := List.mem_range.mp hk
  rw [Memory.read_writeRange, if_neg (by omega)]

/-! ### How many bytes `B32.DEC` writes (R94, R96) -/

theorem length_of_mapM_eq_some {α β : Type} {f : α → Option β} {l : List α} :
    ∀ {l' : List β}, l.mapM f = some l' → l'.length = l.length := by
  induction l with
  | nil => intro l' h; cases h; rfl
  | cons a l ih =>
    intro l' h
    simp only [List.mapM_cons, Option.bind_eq_bind, Option.bind_eq_some_iff, Option.pure_def, Option.some.injEq] at h
    obtain ⟨b, -, bs, hbs, rfl⟩ := h
    simp [ih hbs]

/-- Whole bytes only: the last piece of fewer than 8 bits is dropped (R94). -/
theorem bytesOfBits_length (bits : List Bool) : (bytesOfBits bits).length = bits.length / 8 := by
  induction bits using bytesOfBits.induct with
  | case1 b7 b6 b5 b4 b3 b2 b1 b0 rest ih => simp only [bytesOfBits, List.length_cons, ih]; omega
  | case2 bits hshort =>
    match bits, hshort with
    | [], _ | [_], _ | [_, _], _ | [_, _, _], _ | [_, _, _, _], _ | [_, _, _, _, _], _ | [_, _, _, _, _, _], _
    | [_, _, _, _, _, _, _], _ => simp [bytesOfBits]
    | b7 :: b6 :: b5 :: b4 :: b3 :: b2 :: b1 :: b0 :: rest, hshort => exact absurd rfl (hshort b7 b6 b5 b4 b3 b2 b1 b0 rest)

theorem b32Decode_length_le {isAlnum : Byte → Bool} {chars bytes : List Byte} (h : b32Decode isAlnum chars = some bytes) :
    bytes.length ≤ 5 * chars.length / 8 := by
  obtain ⟨vs, hvs, rfl⟩ := Option.map_eq_some_iff.mp h
  have hkept : (chars.filter isAlnum).length ≤ chars.length := List.length_filter_le _ _
  have hlen := length_of_mapM_eq_some hvs
  rw [bytesOfBits_length, List.length_flatMap]
  simp only [bitsOf_length, List.map_const', List.sum_replicate, smul_eq_mul]
  omega

/-! ### The second run -/

/-- An outcome that leaves the block as it reads in `t`: every byte, both planes and the stage. -/
def LeavesBlock (t : State) (o : Host.Outcome State Fault Refusal) : Prop :=
  ∃ u, o = .next u ∧ (∀ a, u.buf.read a = t.buf.read a) ∧ u.mod = t.mod ∧ u.func = t.func ∧ u.qrst = t.qrst

theorem raise_leavesBlock (st : Status) (t : State) : LeavesBlock t (raise st t) :=
  ⟨_, raise_eq st t, fun _ => rfl, rfl, rfl, rfl⟩

variable {s t : State}

theorem buf_of_respond_withBuf {m : Memory} {v : Value} (h : respond v (s.withBuf m) = .next t) : t.buf = m := by
  rw [respond_next h, State.withResponse_buf, State.withBuf_buf]

/-- The bytes a state has just taken, stored once more. -/
theorem storeAgain_leavesBlock {m : Memory} {base : Nat} {bs : List Byte} (ht : t.buf = m.writeRange base bs) (v : Value) :
    LeavesBlock t (respond v (t.withBuf (t.buf.writeRange base bs))) := by
  refine ⟨_, respond_eq _ _, fun a => ?_, rfl, rfl, rfl⟩
  rw [State.withResponse_buf, State.withBuf_buf, ht, Memory.read_writeRange_again]

/-! ### The five commands -/

theorem execBufWr_again {addr : Nat} {data : Byte} (h : execBufWr addr data s = .next t) :
    LeavesBlock t (execBufWr addr data t) := by
  by_cases hmapped : mapped addr = true
  · simp only [execBufWr, if_pos hmapped] at h ⊢
    exact storeAgain_leavesBlock (bs := [data]) (buf_of_respond_withBuf h) 0
  · simpa only [execBufWr, if_neg hmapped] using raise_leavesBlock .range t

/-- `B32.ENC` reads BYTES and writes from SYMS on, which lies after it. -/
theorem execB32Enc_again {off len : Nat} (h : execB32Enc off len s = .next t) : LeavesBlock t (execB32Enc off len t) := by
  by_cases hrange : bytesRangeOk off len = true
  · simp only [execB32Enc, if_pos hrange] at h ⊢
    have hbuf := buf_of_respond_withBuf h
    have hfit : off + len ≤ 20 := of_decide_eq_true hrange
    have hread : t.bytesList off len = s.bytesList off len := by
      rw [State.bytesList, hbuf, Memory.readRange_writeRange_of_disjoint, State.bytesList]
      simp only [bytesBase, symsBase]
      omega
    rw [hread]
    exact storeAgain_leavesBlock hbuf _
  · simpa only [execB32Enc, if_neg hrange] using raise_leavesBlock .range t

/-- `B32.DEC` reads SYMS and writes at most 20 bytes into BYTES, which lies before it. -/
theorem execB32Dec_again {cnt : Nat} (h : execB32Dec cnt s = .next t) : LeavesBlock t (execB32Dec cnt t) := by
  by_cases hcnt : cnt ≤ Config.sMax
  · simp only [execB32Dec, if_pos hcnt] at h ⊢
    cases hdec : b32Decode asciiAlnum (s.symsList cnt) with
    | some bytes =>
      simp only [hdec] at h
      have hbuf := buf_of_respond_withBuf h
      have hlen : bytes.length ≤ 5 * cnt / 8 := by simpa [State.symsList] using b32Decode_length_le hdec
      have hread : t.symsList cnt = s.symsList cnt := by
        rw [State.symsList, hbuf, Memory.readRange_writeRange_of_disjoint, State.symsList]
        simp only [bytesBase, symsBase, Config.sMax] at hcnt ⊢
        omega
      simp only [hread, hdec]
      exact storeAgain_leavesBlock hbuf _
    | none =>
      simp only [hdec] at h
      have hread : t.symsList cnt = s.symsList cnt := by rw [raise_next h]; rfl
      simp only [hread, hdec]
      exact raise_leavesBlock _ t
  · simpa only [execB32Dec, if_neg hcnt] using raise_leavesBlock .range t

/-- `RS.ENC` reads CW[0..18] and writes from CW[19] on. -/
theorem execRsEnc_again (h : execRsEnc s = .next t) : LeavesBlock t (execRsEnc t) := by
  have hbuf := buf_of_respond_withBuf h
  have hread : t.cwList Config.nData = s.cwList Config.nData := by
    rw [State.cwList, hbuf, Memory.readRange_writeRange_of_disjoint _ (.inl le_rfl), State.cwList]
  rw [execRsEnc, hread]
  exact storeAgain_leavesBlock hbuf 0

theorem execQrInit_again (h : execQrInit s = .next t) : LeavesBlock t (execQrInit t) := by
  obtain rfl := respond_next h
  exact ⟨_, respond_eq _ _, fun _ => rfl, rfl, rfl, rfl⟩

end Sys2Proof.Machine
end

section
/-! The statements of 20_memory.md. -/

namespace Sys2Proof.Proofs.BlockMemory

open Sys2Proof Sys2Proof.Machine

/-- Settles O53: a step that accepts no command changes nothing, an illegal word only answers, and a decoded command writes
the buffer space byte by byte, each write keeping it canonical. -/
theorem stepKeepsTheBufferCanonical : Obligations.StepKeepsTheBufferCanonical := by
  intro s t hs hstep
  obtain ⟨-, rfl⟩ | ⟨w, i, -, -, hexec⟩ | ⟨w, e, -, -, rfl⟩ := step_cases hstep
  · exact hs
  · exact (exec_ends hexec).buf_wf hs
  · exact hs

/-- Settles O49, field by field over the ways a command can end. -/
theorem onlyTheNamedCommandsWrite : Obligations.OnlyTheNamedCommandsWrite := by
  intro i s t hexec
  have hends := exec_ends hexec
  exact ⟨hends.buf_eq, hends.symbol_eq, hends.func_eq, hends.answersOnce.commands, hends.answersOnce.pc⟩

/-- Settles O50, command by command: each of the five leaves the block as its first run did. -/
theorem repeatedWritesLeaveTheSameState : Obligations.RepeatedWritesLeaveTheSameState := by
  intro i s t hrep hexec
  cases i with
  | bufWr addr data => exact execBufWr_again hexec
  | b32Enc off len => exact execB32Enc_again hexec
  | b32Dec cnt => exact execB32Dec_again hexec
  | rsEnc => exact execRsEnc_again hexec
  | qrInit => exact execQrInit_again hexec
  | _ => simp [Claims.repeatable] at hrep

end Sys2Proof.Proofs.BlockMemory
end

section
/-! A command word and its fields (30_encoding.md R60, R61): which word its fields make up, and which words a row of R64
matches. -/

namespace Sys2Proof

/-! ### Numeric operands in their fields (R62) -/

@[simp] theorem fits8_toNat (a : Byte) : fits8 a.toNat = true := decide_eq_true a.isLt

@[simp] theorem field8_toNat (a : Byte) : field8 a.toNat = a := by simp [field8]

theorem toNat_field8 {n : Nat} (h : fits8 n = true) : (field8 n).toNat = n :=
  Nat.mod_eq_of_lt (of_decide_eq_true h)

/-! ### The word of format I15 -/

/-- The word of format I15: the opcode and a 15-bit operand. -/
def packI15 (op : Byte) (imm15 : FormatWord) : Word32 := packBytes op 0 0 0 ||| imm15.setWidth 32

theorem encode_qrFmt (imm15 : FormatWord) : encode (.qrFmt imm15) = packI15 0x62 imm15 := rfl

theorem packI15_getLsbD (op : Byte) (imm15 : FormatWord) (i : Nat) :
    (packI15 op imm15).getLsbD i =
      if i < 15 then imm15.getLsbD i else if i < 24 then false else op.getLsbD (i - 24) := by
  rw [packI15, BitVec.getLsbD_or, packBytes_getLsbD, BitVec.getLsbD_setWidth]
  by_cases h15 : i < 15
  · simp [h15, show i < 24 by omega, show i < 32 by omega]
  · by_cases h24 : i < 24
    · simp [h15, h24, BitVec.getLsbD_of_ge imm15 i (by omega)]
    · simp [h15, h24, show ¬ i < 8 by omega, show ¬ i < 16 by omega, BitVec.getLsbD_of_ge imm15 i (by omega)]

@[simp] theorem opField_packI15 (op : Byte) (imm15 : FormatWord) : opField (packI15 op imm15) = op := by
  ext i hi
  have hge : ¬ 24 + i < 15 := by omega
  simp [opField, packI15_getLsbD, BitVec.getElem_extractLsb', BitVec.getLsbD_eq_getElem hi, hge]

@[simp] theorem imm15Field_packI15 (op : Byte) (imm15 : FormatWord) : imm15Field (packI15 op imm15) = imm15 := by
  ext i hi
  simp [imm15Field, packI15_getLsbD, BitVec.getElem_extractLsb', hi]

@[simp] theorem i15ZeroField_packI15 (op : Byte) (imm15 : FormatWord) : i15ZeroField (packI15 op imm15) = 0 := by
  ext i hi
  have hlt : 15 + i < 24 := by omega
  simp [i15ZeroField, packI15_getLsbD, BitVec.getElem_extractLsb', hlt]

/-! ### A word is made up of its fields -/

theorem packBytes_fields (w : Word32) : packBytes (opField w) (aField w) (bField w) (cField w) = w := by
  apply BitVec.eq_of_getLsbD_eq
  intro i hi
  simp only [packBytes_getLsbD, opField, aField, bField, cField, BitVec.getLsbD_extractLsb']
  split_ifs with h8 h16 h24
  · simp [h8]
  · simp [show i - 8 < 8 by omega, show 8 + (i - 8) = i by omega]
  · simp [show i - 16 < 8 by omega, show 16 + (i - 16) = i by omega]
  · simp [show i - 24 < 8 by omega, show 24 + (i - 24) = i by omega]

theorem packI15_fields {w : Word32} (h : i15ZeroField w = 0) : packI15 (opField w) (imm15Field w) = w := by
  apply BitVec.eq_of_getLsbD_eq
  intro i hi
  simp only [packI15_getLsbD, opField, imm15Field, BitVec.getLsbD_extractLsb']
  split_ifs with h15 h24
  · simp [h15]
  · have hbit : (i15ZeroField w).getLsbD (i - 15) = w.getLsbD i := by
      simp [i15ZeroField, show i - 15 < 9 by omega, show 15 + (i - 15) = i by omega]
    rw [← hbit, h]
    simp
  · simp [show i - 24 < 8 by omega, show 24 + (i - 24) = i by omega]

/-! ### Which words a row matches (R61, R64): the row's opcode, and zeros where the format has no operand -/

theorem opField_and (w m : Word32) : opField (w &&& m) = opField w &&& opField m := BitVec.extractLsb'_and

theorem i15ZeroField_and (w m : Word32) : i15ZeroField (w &&& m) = i15ZeroField w &&& i15ZeroField m :=
  BitVec.extractLsb'_and

theorem Row.matches_iff {r : Row} {w : Word32} : r.matches w = true ↔ w &&& r.mask = r.pattern := decide_eq_true_iff

theorem eq_packBytes_of_rowZ {op : Byte} {w : Word32} (h : (rowZ op).matches w = true) : w = packBytes op 0 0 0 := by
  have hall : w &&& 0xFFFFFFFF#32 = w := BitVec.and_allOnes
  exact hall.symm.trans (Row.matches_iff.mp h)

theorem mustBeZero_of_rowA {op : Byte} {w : Word32} (h : (rowA op).matches w = true) : bField w = 0 ∧ cField w = 0 := by
  have hw : packBytes (opField w) 0 (bField w) (cField w) = packBytes op 0 0 0 := by
    rw [← packBytes_and_maskA (opField w) (aField w), packBytes_fields]
    exact Row.matches_iff.mp h
  exact ⟨by simpa using congrArg bField hw, by simpa using congrArg cField hw⟩

theorem mustBeZero_of_rowAB {op : Byte} {w : Word32} (h : (rowAB op).matches w = true) : cField w = 0 := by
  have hw : packBytes (opField w) 0 0 (cField w) = packBytes op 0 0 0 := by
    rw [← packBytes_and_maskAB (opField w) (aField w) (bField w), packBytes_fields]
    exact Row.matches_iff.mp h
  simpa using congrArg cField hw

theorem mustBeZero_of_rowI15 {op : Byte} {w : Word32} (h : (rowI15 op).matches w = true) : i15ZeroField w = 0 := by
  have hop : i15ZeroField (packBytes op 0 0 0) = 0 := by simpa [packI15] using i15ZeroField_packI15 op 0
  have hmask : i15ZeroField w &&& i15ZeroField 0xFFFF8000#32 = i15ZeroField w := BitVec.and_allOnes
  rw [← hmask, ← i15ZeroField_and, ← hop]
  exact congrArg i15ZeroField (Row.matches_iff.mp h)

/-! ### The opcode tells the rows of the table apart (R65) -/

/-- The opcode of a row. -/
def Row.op (r : Row) : Byte := opField r.pattern

@[simp] theorem rowZ_op (op : Byte) : (rowZ op).op = op := opField_packBytes op 0 0 0
@[simp] theorem rowA_op (op : Byte) : (rowA op).op = op := opField_packBytes op 0 0 0
@[simp] theorem rowAB_op (op : Byte) : (rowAB op).op = op := opField_packBytes op 0 0 0
@[simp] theorem rowI15_op (op : Byte) : (rowI15 op).op = op := opField_packBytes op 0 0 0

theorem opcodeTable_mask_op : ∀ r ∈ opcodeTable, opField r.mask = 0xFF#8 := by decide

theorem opcodeTable_op_injective : ∀ r ∈ opcodeTable, ∀ q ∈ opcodeTable, r.op = q.op → r = q := by decide

/-- Every row's mask holds the whole opcode. -/
theorem opField_of_matches {r : Row} {w : Word32} (hr : r ∈ opcodeTable) (h : r.matches w = true) : opField w = r.op :=
  calc opField w = opField w &&& opField r.mask := by rw [opcodeTable_mask_op r hr, byte_and_full]
    _ = opField (w &&& r.mask) := (opField_and w r.mask).symm
    _ = r.op := congrArg opField (Row.matches_iff.mp h)

/-- The only row of the table a word can match is the row of its opcode. -/
theorem eq_of_matches_of_op {r q : Row} {w : Word32} (hr : r ∈ opcodeTable) (hq : q ∈ opcodeTable) (h : r.matches w = true)
    (hop : opField w = q.op) : r = q :=
  opcodeTable_op_injective r hr q hq ((opField_of_matches hr h).symm.trans hop)

theorem matches_eq_false_of_row {q : Row} {w : Word32} (hq : q ∈ opcodeTable) (hop : opField w = q.op)
    (hno : q.matches w ≠ true) : ∀ r ∈ opcodeTable, r.matches w = false := by
  intro r hr
  by_contra h
  have hmatch : r.matches w = true := eq_true_of_ne_false h
  exact hno (eq_of_matches_of_op hr hq hmatch hop ▸ hmatch)

theorem Instr.row_mem_opcodeTable (i : Instr) : i.row ∈ opcodeTable := by
  cases i <;> simp [Instr.row, opcodeTable]

end Sys2Proof
end

section
/-! What the decoder makes of a word (30_encoding.md R64, R65), said once over the branches of `decode`. -/

namespace Sys2Proof

/-- What may be read from `w`: an instruction whose word is `w`, or an error where `w` matches no row. -/
def ReadsRight (w : Word32) : Except Illegal Instr → Prop
  | .ok i => i.wf = true ∧ encode i = w
  | .error _ => ∀ r ∈ opcodeTable, r.matches w = false

/-! ### The four formats, each with the row and the commands of an opcode -/

section
variable {w : Word32} {op : Byte} (hnat : (opField w).toNat = op.toNat)
include hnat

theorem formatZ_readsRight {i : Instr} (hrow : rowZ op ∈ opcodeTable) (hi : i.wf = true ∧ encode i = packBytes op 0 0 0) :
    ReadsRight w (formatZ w i) := by
  have hop := BitVec.eq_of_toNat_eq hnat
  unfold formatZ
  split
  next hzero =>
    obtain ⟨ha, hb, hc⟩ := hzero
    have hw := packBytes_fields w
    rw [hop, ha, hb, hc] at hw
    exact ⟨hi.1, hi.2.trans hw⟩
  next hzero =>
    refine matches_eq_false_of_row hrow (by simpa using hop) fun h => hzero ?_
    rw [eq_packBytes_of_rowZ h]
    simp

theorem formatA_readsRight {f : Byte → Instr} (hrow : rowA op ∈ opcodeTable)
    (hf : ∀ a, (f a).wf = true ∧ encode (f a) = packBytes op a 0 0) : ReadsRight w (formatA w f) := by
  have hop := BitVec.eq_of_toNat_eq hnat
  unfold formatA
  split
  next hzero =>
    obtain ⟨hb, hc⟩ := hzero
    obtain ⟨hwf, hword⟩ := hf (aField w)
    have hw := packBytes_fields w
    rw [hop, hb, hc] at hw
    exact ⟨hwf, hword.trans hw⟩
  next hzero =>
    exact matches_eq_false_of_row hrow (by simpa using hop) fun h => hzero (mustBeZero_of_rowA h)

theorem formatAB_readsRight {f : Byte → Byte → Instr} (hrow : rowAB op ∈ opcodeTable)
    (hf : ∀ a b, (f a b).wf = true ∧ encode (f a b) = packBytes op a b 0) : ReadsRight w (formatAB w f) := by
  have hop := BitVec.eq_of_toNat_eq hnat
  unfold formatAB
  split
  next hzero =>
    obtain ⟨hwf, hword⟩ := hf (aField w) (bField w)
    have hw := packBytes_fields w
    rw [hop, hzero] at hw
    exact ⟨hwf, hword.trans hw⟩
  next hzero =>
    exact matches_eq_false_of_row hrow (by simpa using hop) fun h => hzero (mustBeZero_of_rowAB h)

theorem formatI15_readsRight {f : FormatWord → Instr} (hrow : rowI15 op ∈ opcodeTable)
    (hf : ∀ imm15, (f imm15).wf = true ∧ encode (f imm15) = packI15 op imm15) : ReadsRight w (formatI15 w f) := by
  have hop := BitVec.eq_of_toNat_eq hnat
  unfold formatI15
  split
  next hzero =>
    obtain ⟨hwf, hword⟩ := hf (imm15Field w)
    have hw := packI15_fields hzero
    rw [hop] at hw
    exact ⟨hwf, hword.trans hw⟩
  next hzero =>
    exact matches_eq_false_of_row hrow (by simpa using hop) fun h => hzero (mustBeZero_of_rowI15 h)

end

theorem opcodeTable_ops : opcodeTable.map (fun r => r.op.toNat) =
    [0x00, 0x01, 0x02, 0x03, 0x10, 0x11, 0x12, 0x13, 0x20, 0x30, 0x31, 0x32, 0x40, 0x41, 0x42, 0x50, 0x60, 0x61, 0x62, 0x63,
     0x64] := by decide

/-- All the decoder can do with a word. -/
theorem decode_readsRight (w : Word32) : ReadsRight w (decode w) := by
  unfold decode
  split
  next hop => exact formatZ_readsRight (op := 0x00) hop (by decide) ⟨rfl, rfl⟩
  next hop => exact formatAB_readsRight (op := 0x01) hop (by decide) fun a b => by simp [Instr.wf, encode]
  next hop => exact formatA_readsRight (op := 0x02) hop (by decide) fun a => by simp [Instr.wf, encode]
  next hop => exact formatA_readsRight (op := 0x03) hop (by decide) fun a => by simp [Instr.wf, encode]
  next hop => exact formatAB_readsRight (op := 0x10) hop (by decide) fun a b => by simp [Instr.wf, encode]
  next hop => exact formatA_readsRight (op := 0x11) hop (by decide) fun a => by simp [Instr.wf, encode]
  next hop => exact formatA_readsRight (op := 0x12) hop (by decide) fun a => by simp [Instr.wf, encode]
  next hop => exact formatA_readsRight (op := 0x13) hop (by decide) fun a => ⟨rfl, rfl⟩
  next hop => exact formatAB_readsRight (op := 0x20) hop (by decide) fun a b => by simp [Instr.wf, encode]
  next hop => exact formatA_readsRight (op := 0x30) hop (by decide) fun a => by simp [Instr.wf, encode]
  next hop => exact formatA_readsRight (op := 0x31) hop (by decide) fun a => ⟨rfl, rfl⟩
  next hop => exact formatAB_readsRight (op := 0x32) hop (by decide) fun a b => ⟨rfl, rfl⟩
  next hop => exact formatA_readsRight (op := 0x40) hop (by decide) fun a => by simp [Instr.wf, encode]
  next hop => exact formatZ_readsRight (op := 0x41) hop (by decide) ⟨rfl, rfl⟩
  next hop => exact formatA_readsRight (op := 0x42) hop (by decide) fun a => by simp [Instr.wf, encode]
  next hop => exact formatA_readsRight (op := 0x50) hop (by decide) fun a => by simp [Instr.wf, encode]
  next hop => exact formatZ_readsRight (op := 0x60) hop (by decide) ⟨rfl, rfl⟩
  next hop => exact formatZ_readsRight (op := 0x61) hop (by decide) ⟨rfl, rfl⟩
  next hop => exact formatI15_readsRight (op := 0x62) hop (by decide) fun imm15 => ⟨rfl, encode_qrFmt imm15⟩
  next hop => exact formatAB_readsRight (op := 0x63) hop (by decide) fun a b => by simp [Instr.wf, encode]
  next hop => exact formatAB_readsRight (op := 0x64) hop (by decide) fun a b => by simp [Instr.wf, encode]
  next =>
    intro r hr
    by_contra h
    have hmem : (opField w).toNat ∈ opcodeTable.map fun r => r.op.toNat :=
      List.mem_map.mpr ⟨r, hr, by rw [opField_of_matches hr (eq_true_of_ne_false h)]⟩
    rw [opcodeTable_ops] at hmem
    simp_all

theorem wf_and_encode_of_decode {w : Word32} {i : Instr} (h : decode w = .ok i) : i.wf = true ∧ encode i = w := by
  have hread := decode_readsRight w
  rwa [h] at hread

theorem matches_eq_false_of_decode {w : Word32} {e : Illegal} (h : decode w = .error e) :
    ∀ r ∈ opcodeTable, r.matches w = false := by
  have hread := decode_readsRight w
  rwa [h] at hread

/-! ### An encoding read back -/

@[simp] theorem formatZ_packBytes (op : Byte) (i : Instr) : formatZ (packBytes op 0#8 0#8 0#8) i = .ok i := by simp [formatZ]

@[simp] theorem formatA_packBytes (op a : Byte) (f : Byte → Instr) : formatA (packBytes op a 0#8 0#8) f = .ok (f a) := by
  simp [formatA]

@[simp] theorem formatAB_packBytes (op a b : Byte) (f : Byte → Byte → Instr) :
    formatAB (packBytes op a b 0#8) f = .ok (f a b) := by
  simp [formatAB]

@[simp] theorem formatI15_packI15 (op : Byte) (imm15 : FormatWord) (f : FormatWord → Instr) :
    formatI15 (packI15 op imm15) f = .ok (f imm15) := by
  simp [formatI15]

/-- The word's opcode leads the decoder to the instruction's own branch, and its operands fit their fields. -/
theorem decode_encode {i : Instr} (h : i.wf = true) : decode (encode i) = .ok i := by
  cases i with
  | nop | rsEnc | qrInit | qrData => rfl
  | b32Val v | gfLog v => simp [encode, decode]
  | gfMul x y => simp [encode, decode]
  | bufRd n | csrRd n | b32Dec n | b32Sym n | gfExp n | rsGen n | rsSyn n | fmtEnc n =>
    simp [encode, decode, toNat_field8 h]
  | bufWr addr data => simp [encode, decode, toNat_field8 h]
  | b32Enc m n | ck5 m n | qrGet m n | qrRow m n =>
    obtain ⟨hm, hn⟩ := (Bool.and_eq_true _ _).mp h
    simp [encode, decode, toNat_field8 hm, toNat_field8 hn]
  | qrFmt imm15 => simp [encode_qrFmt, decode]

/-- The word of an instruction matches the instruction's row (R64). -/
theorem Instr.row_matches_encode (i : Instr) : i.row.matches (encode i) = true := by
  cases i with
  | nop => exact Laws.EncodeMatchesRow.nop
  | bufWr addr data => exact Laws.EncodeMatchesRow.bufWr addr data
  | bufRd addr => exact Laws.EncodeMatchesRow.bufRd addr
  | csrRd idx => exact Laws.EncodeMatchesRow.csrRd idx
  | b32Enc off len => exact Laws.EncodeMatchesRow.b32Enc off len
  | b32Dec cnt => exact Laws.EncodeMatchesRow.b32Dec cnt
  | b32Sym v => exact Laws.EncodeMatchesRow.b32Sym v
  | b32Val ch => exact Laws.EncodeMatchesRow.b32Val ch
  | ck5 off len => exact Laws.EncodeMatchesRow.ck5 off len
  | gfExp n => exact Laws.EncodeMatchesRow.gfExp n
  | gfLog v => exact Laws.EncodeMatchesRow.gfLog v
  | gfMul x y => exact Laws.EncodeMatchesRow.gfMul x y
  | rsGen j => exact Laws.EncodeMatchesRow.rsGen j
  | rsEnc => exact Laws.EncodeMatchesRow.rsEnc
  | rsSyn n => exact Laws.EncodeMatchesRow.rsSyn n
  | fmtEnc d => exact Laws.EncodeMatchesRow.fmtEnc d
  | qrInit => exact Laws.EncodeMatchesRow.qrInit
  | qrData => exact Laws.EncodeMatchesRow.qrData
  | qrFmt imm15 => exact Laws.EncodeMatchesRow.qrFmt imm15
  | qrGet y x => exact Laws.EncodeMatchesRow.qrGet y x
  | qrRow y sel => exact Laws.EncodeMatchesRow.qrRow y sel

theorem row_matches_of_decode {w : Word32} {i : Instr} (h : decode w = .ok i) : i.row.matches w = true := by
  obtain ⟨-, rfl⟩ := wf_and_encode_of_decode h
  exact i.row_matches_encode

/-- The decoder rejects exactly the words that match no row (R65, R66). -/
theorem exists_decode_error_iff {w : Word32} :
    (∃ e, decode w = .error e) ↔ ∀ r ∈ opcodeTable, r.matches w = false := by
  constructor
  · rintro ⟨e, he⟩
    exact matches_eq_false_of_decode he
  · intro hno
    cases hdec : decode w with
    | error e => exact ⟨e, rfl⟩
    | ok i =>
      have hmatch := row_matches_of_decode hdec
      rw [hno i.row i.row_mem_opcodeTable] at hmatch
      exact absurd hmatch Bool.false_ne_true

end Sys2Proof
end

section
/-! That every command and every word is answered (30_encoding.md R63, R66; 60_exceptions.md R210). -/

namespace Sys2Proof.Machine

/-- The response of a command: one of the six statuses, with value 0 where it is not OK (R63, R210). -/
theorem Ends.responses {i : Instr} {s t : State} (h : Ends i s t) :
    ∃ st v, t.responses = s.responses ++ [responseWord st v] ∧ (st = .ok ∨ v = 0) := by
  cases h with
  | answered st v h hv => exact ⟨st, v, by simp [h], hv⟩
  | stored base bs v h => exact ⟨.ok, v, by simp [h], .inl rfl⟩
  | drawn _ h => exact ⟨.ok, 0, by simp [h], .inl rfl⟩
  | placed _ _ _ h => exact ⟨.ok, 0, by simp [h], .inl rfl⟩
  | formatted w _ _ _ h => exact ⟨.ok, 0, by simp [h], .inl rfl⟩

theorem statusCode_mem (st : Status) : statusCode st ∈ [0x00#8, 0x01#8, 0x02#8, 0x10#8, 0x11#8, 0x12#8] := by
  cases st <;> decide

/-- No meaning faults or is refused: each answers alike in a state and in itself, so it answers. -/
theorem exec_answers (i : Instr) (s : State) : ∃ t, exec i s = .next t := by
  obtain ⟨t, -, -, ht, -⟩ := exec_answersAlike (s := s) (s' := s) ⟨rfl, rfl, rfl, rfl⟩ i
  exact ⟨t, ht⟩

theorem perform_of_error {w : Word32} {e : Illegal} (h : decode w = .error e) (s : State) :
    perform w s = raise .illegalCmd s := by
  simp only [perform, h]

theorem perform_answers (w : Word32) (s : State) : ∃ t, perform w s = .next t := by
  cases hdec : decode w with
  | ok i => rw [perform_of_decode hdec]; exact exec_answers i s
  | error e => exact ⟨_, perform_of_error hdec s⟩

end Sys2Proof.Machine
end

section
/-! The statements of 30_encoding.md. -/

namespace Sys2Proof.Proofs.Encoding

open Sys2Proof Sys2Proof.Machine

/-- Settles O1, instruction by instruction. -/
theorem decodeReadsBackEveryEncoding : Obligations.DecodeReadsBackEveryEncoding :=
  fun _ hwf => decode_encode hwf

/-- Settles O2, by what each branch of the decoder reads. -/
theorem decodedWordIsItsEncoding : Obligations.DecodedWordIsItsEncoding :=
  fun _ _ hdec => wf_and_encode_of_decode hdec

/-- Settles O3: the opcode singles out the row; a decoded word is its instruction's encoding, which matches the
instruction's row; and a rejected word lacks the zeros its opcode's row asks for, or has no row. -/
theorem everyWordMatchesOneRowOrNone : Obligations.EveryWordMatchesOneRowOrNone := by
  intro w
  refine ⟨fun r hr q hq hrw hqw => ?_, fun i hdec => ?_, exists_decode_error_iff⟩
  · exact eq_of_matches_of_op hr hq hrw (opField_of_matches hq hqw)
  · exact ⟨i.row_mem_opcodeTable, row_matches_of_decode hdec⟩

/-- Settles O4: the decoder rejects the word, and the step raises ILLEGAL_CMD on the ticked state. -/
theorem illegalWordAnswersIllegalCmd : Obligations.IllegalWordAnswersIllegalCmd := by
  intro s w hw hno
  obtain ⟨e, he⟩ := exists_decode_error_iff.mpr hno
  calc step s = perform w s.tick := step_of_nextCommand hw
    _ = raise .illegalCmd s.tick := perform_of_error he s.tick
    _ = .next (s.tick.withResponse 0x10000000#32) := rfl

/-- Settles O44: where a command waits it is performed, and every word is answered. -/
theorem everyStepAnswers : Obligations.EveryStepAnswers := by
  intro s
  cases hw : nextCommand s with
  | none => exact ⟨s, by simp only [step, hw]⟩
  | some w => rw [step_of_nextCommand hw]; exact perform_answers w s.tick

/-- Settles O45, over the ways a command can end. -/
theorem eachCommandGivesOneResponse : Obligations.EachCommandGivesOneResponse := by
  intro i s
  obtain ⟨t, hexec⟩ := exec_answers i s
  obtain ⟨st, v, hresponses, hv⟩ := (exec_ends hexec).responses
  refine ⟨t, responseWord st v, hexec, hresponses, ?_, fun hst => ?_⟩
  · rw [responseStatus_responseWord]
    exact statusCode_mem st
  · rw [responseStatus_responseWord] at hst
    rw [responseValue_responseWord]
    exact hv.resolve_left fun hok => hst (congrArg statusCode hok)

/-- Settles O7, by running the decoder on the words. -/
theorem specWordsDecode : Obligations.SpecWordsDecode := by
  unfold Obligations.SpecWordsDecode
  decide

end Sys2Proof.Proofs.Encoding
end

section
/-! The words of formats A and AB with a number in an operand field (30_encoding.md R60, R61). -/

namespace Sys2Proof

theorem setWidth_field8 {n : Nat} (h : n < 256) : (field8 n).setWidth 32 = BitVec.ofNat 32 n := by
  apply BitVec.eq_of_toNat_eq
  simp only [field8, BitVec.toNat_setWidth, BitVec.toNat_ofNat]
  omega

/-- The word of format AB: the opcode, a number that fits its field and a byte. -/
theorem packBytes_formatAB (op b : Byte) {n : Nat} (h : n < 256) :
    packBytes op (field8 n) b 0 =
      (op.setWidth 32 <<< 24) ||| (BitVec.ofNat 32 n <<< 16) ||| (b.setWidth 32 <<< 8) := by
  rw [packBytes, setWidth_field8 h]
  exact BitVec.or_zero

/-- The word of format A: the opcode and a number that fits its field. -/
theorem packBytes_formatA (op : Byte) {n : Nat} (h : n < 256) :
    packBytes op (field8 n) 0 0 = (op.setWidth 32 <<< 24) ||| (BitVec.ofNat 32 n <<< 16) := by
  rw [packBytes_formatAB op 0 h]
  exact BitVec.or_zero

end Sys2Proof
end

section
/-! What a response word holds (30_encoding.md R63), and what `BUF.WR`, `BUF.RD` and `CSR.RD` do in each of their cases
(40_system_buffer.md R81 to R83). -/

namespace Sys2Proof.Machine

/-! ### Responses -/

/-- An OK response is its value: the status code is 0. -/
theorem responseWord_ok (v : Value) : responseWord .ok v = v.setWidth 32 := BitVec.zero_or

/-- A result that fits the value field comes back zero-extended to the whole word. -/
theorem respond_setWidth {n : Nat} (hn : n ≤ 24) (v : BitVec n) (s : State) :
    respond (v.setWidth 24) s = .next (s.withResponse (v.setWidth 32)) := by
  rw [respond_eq, responseWord_ok, BitVec.setWidth_setWidth fun ⟨hlt, _⟩ => Nat.not_lt.mpr hn hlt]

theorem raise_range (s : State) : raise .range s = .next (s.withResponse 0x11000000#32) := rfl

/-- The frame of a command that stores bytes and answers. -/
theorem State.onlyBufChanged_stored (s : State) (m : Memory) (w : Word32) :
    s.onlyBufChanged ((s.withBuf m).withResponse w) w := ⟨rfl, rfl, rfl, rfl, rfl, rfl⟩

/-! ### `BUF.WR` and `BUF.RD` -/

theorem exec_bufWr_of_mapped {addr : Nat} (h : mapped addr = true) (data : Byte) (s : State) :
    exec (.bufWr addr data) s = .next ((s.withBuf (s.buf.write addr data)).withResponse 0x00000000#32) :=
  if_pos h

theorem exec_bufWr_of_not_mapped {addr : Nat} (h : ¬ mapped addr = true) (data : Byte) (s : State) :
    exec (.bufWr addr data) s = .next (s.withResponse 0x11000000#32) :=
  if_neg h

theorem exec_bufRd_of_mapped {addr : Nat} (h : mapped addr = true) (s : State) :
    exec (.bufRd addr) s = .next (s.withResponse ((s.buf.read addr).setWidth 32)) :=
  (if_pos h).trans (respond_setWidth (by decide) _ s)

theorem exec_bufRd_of_not_mapped {addr : Nat} (h : ¬ mapped addr = true) (s : State) :
    exec (.bufRd addr) s = .next (s.withResponse 0x11000000#32) :=
  if_neg h

/-! ### `CSR.RD` -/

theorem csrValue_of_two_le {idx : Nat} (h : 2 ≤ idx) (s : State) : csrValue idx s = none := by
  match idx, h with
  | _ + 2, _ => rfl

theorem exec_csrRd_of_some {idx : Nat} {v : Value} {s : State} (h : csrValue idx s = some v) :
    exec (.csrRd idx) s = respond v s := by
  simp only [exec, execCsrRd, h]

theorem exec_csrRd_of_none {idx : Nat} {s : State} (h : csrValue idx s = none) :
    exec (.csrRd idx) s = raise .range s := by
  simp only [exec, execCsrRd, h]

end Sys2Proof.Machine
end

section
/-! The statements of 40_system_buffer.md. -/

namespace Sys2Proof.Proofs.SystemBuffer

open Sys2Proof Sys2Proof.Machine

/-- Settles O9, at a mapped address and at an unmapped one: what every address reads afterwards is the law of one write. -/
theorem bufWriteStoresOneByte : Obligations.BufWriteStoresOneByte := by
  intro addr data s
  refine ⟨packBytes_formatAB 0x01 data, fun hmem => ?_, fun hmem => ?_⟩
  · have hmapped : mapped addr = true := (mapped_iff addr).mpr hmem
    refine ⟨_, exec_bufWr_of_mapped hmapped data s, s.onlyBufChanged_stored _ _, fun a => ?_⟩
    rw [State.withResponse_buf, State.withBuf_buf, Memory.read_write]
    simp only [hmapped, and_true]
  · exact exec_bufWr_of_not_mapped (mt (mapped_iff addr).mp hmem) data s

/-- Settles O8: the word and the response are fixed, and the meaning only answers. -/
theorem nopAnswersOkAndChangesNothing : Obligations.NopAnswersOkAndChangesNothing :=
  ⟨by decide, respond_eq 0⟩

/-- Settles O10, at a mapped address and at an unmapped one. -/
theorem bufReadAnswersTheByte : Obligations.BufReadAnswersTheByte := by
  intro addr s
  refine ⟨packBytes_formatA 0x02, fun hmem => ?_, fun hmem => ?_⟩
  · exact exec_bufRd_of_mapped ((mapped_iff addr).mpr hmem) s
  · exact exec_bufRd_of_not_mapped (mt (mapped_iff addr).mp hmem) s

/-- Settles O11, index by index: ID, the stage, and no register from index 2 on. -/
theorem csrReadAnswersIdAndStage : Obligations.CsrReadAnswersIdAndStage := by
  intro s
  refine ⟨fun idx => packBytes_formatA 0x03, ?id, ?stage, fun idx hidx => ?rest⟩
  case id =>
    calc exec (.csrRd 0) s = respond idValue s := exec_csrRd_of_some rfl
      _ = .next (s.withResponse 0x00415701#32) := rfl
  case stage =>
    calc exec (.csrRd 1) s = respond (s.qrst.setWidth 24) s := exec_csrRd_of_some rfl
      _ = .next (s.withResponse (s.qrst.setWidth 32)) := respond_setWidth (by decide) s.qrst s
  case rest =>
    calc exec (.csrRd idx) s = raise .range s := exec_csrRd_of_none (csrValue_of_two_le hidx s)
      _ = .next (s.withResponse 0x11000000#32) := raise_range s

end Sys2Proof.Proofs.SystemBuffer
end

section
/-! Bit strings cut into pieces (20_memory.md R43; 41_base32.md R91, R94): what number a joined bit string stands for, and
how the cuts into 5-bit groups and into bytes answer the strings they were cut from. -/

namespace Sys2Proof.Machine

/-! ### The number a bit string stands for -/

theorem ofBits_append_list (l r : List Bool) : ofBits (l ++ r) = 2 ^ r.length * ofBits l + ofBits r := by
  induction r using List.reverseRecOn with
  | nil => simp [ofBits]
  | append_singleton r b ih =>
    rw [← List.append_assoc, ofBits_append, ofBits_append, ih, List.length_append, List.length_singleton, Nat.pow_succ]
    ring

/-- The leading bits are left when the others are shifted out. -/
theorem ofBits_append_shiftRight (l r : List Bool) : ofBits (l ++ r) >>> r.length = ofBits l := by
  rw [Nat.shiftRight_eq_div_pow, ofBits_append_list, Nat.mul_add_div (Nat.two_pow_pos _), Nat.div_eq_of_lt (ofBits_lt r),
    Nat.add_zero]

/-- The trailing bits are left when the others are masked out. -/
theorem ofBits_append_and_mask (l r : List Bool) : ofBits (l ++ r) &&& (1 <<< r.length - 1) = ofBits r := by
  rw [Nat.one_shiftLeft, Nat.and_two_pow_sub_one_eq_mod, ofBits_append_list, Nat.mul_add_mod, Nat.mod_eq_of_lt (ofBits_lt r)]

/-- A mask as wide as the string leaves it whole. -/
theorem ofBits_and_mask {n : Nat} {l : List Bool} (h : l.length = n) : ofBits l &&& (2 ^ n - 1) = ofBits l := by
  rw [Nat.and_two_pow_sub_one_eq_mod, Nat.mod_eq_of_lt (h ▸ ofBits_lt l)]

@[simp] theorem bitsOf_getElem {n v k : Nat} (h : k < (bitsOf n v).length) : (bitsOf n v)[k] = v.testBit (n - 1 - k) := by
  apply Option.some_injective
  rw [← List.getElem?_eq_getElem h, bitsOf_getElem?, if_pos (bitsOf_length n v ▸ h)]

/-- `ofBits_testBit` with the first bit counted as bit 0 of the string. -/
theorem ofBits_testBit_of_lt {l : List Bool} {k : Nat} (h : k < l.length) : (ofBits l).testBit (l.length - 1 - k) = l[k] := by
  have hk : l.length - 1 - (l.length - 1 - k) = k := by omega
  rw [ofBits_testBit, List.getD_eq_getElem _ _ (by rw [List.length_reverse]; omega), List.getElem_reverse]
  simp only [hk]

@[simp] theorem bitsOf_ofBits (l : List Bool) : bitsOf l.length (ofBits l) = l :=
  List.ext_getElem (bitsOf_length _ _) fun _ _ h => by rw [bitsOf_getElem, ofBits_testBit_of_lt h]

theorem ofBits_bitsOf {n v : Nat} (h : v < 2 ^ n) : ofBits (bitsOf n v) = v := by
  apply Nat.eq_of_testBit_eq
  intro j
  by_cases hj : j < n
  · have hbit := ofBits_testBit_of_lt (l := bitsOf n v) (k := n - 1 - j) (by rw [bitsOf_length]; omega)
    rwa [bitsOf_getElem, bitsOf_length, show n - 1 - (n - 1 - j) = j by omega] at hbit
  · have hpow : 2 ^ n ≤ 2 ^ j := Nat.pow_le_pow_right Nat.two_pos (Nat.not_lt.mp hj)
    have hbits := ofBits_lt (bitsOf n v)
    rw [bitsOf_length] at hbits
    rw [Nat.testBit_lt_two_pow (hbits.trans_le hpow), Nat.testBit_lt_two_pow (h.trans_le hpow)]

/-- Bits taken in at the low end. -/
theorem ofBits_append_bitsOf (l : List Bool) {n v : Nat} (h : v < 2 ^ n) :
    ofBits (l ++ bitsOf n v) = (ofBits l <<< n) ||| v := by
  rw [← Nat.shiftLeft_add_eq_or_of_lt h, ofBits_append_list, ofBits_bitsOf h, bitsOf_length, Nat.shiftLeft_eq, Nat.mul_comm]

/-- Zeros taken in at the low end. -/
theorem ofBits_append_zeros (l : List Bool) (n : Nat) : ofBits (l ++ List.replicate n false) = ofBits l <<< n := by
  induction n with
  | zero => simp
  | succ n ih => rw [List.replicate_succ', ← List.append_assoc, ofBits_append, ih, Nat.shiftLeft_succ]; rfl

/-- Bit n·i + j of numbers written with `n` bits each is bit n - 1 - j of number i. -/
theorem flatMap_bitsOf_getElem? {n j : Nat} (h : j < n) (vs : List Nat) (i : Nat) :
    (vs.flatMap (bitsOf n))[n * i + j]? = vs[i]?.map fun v => v.testBit (n - 1 - j) := by
  induction vs generalizing i with
  | nil => simp
  | cons v vs ih =>
    rw [List.flatMap_cons]
    cases i with
    | zero =>
      rw [Nat.mul_zero, Nat.zero_add, List.getElem?_append_left (by rwa [bitsOf_length]), bitsOf_getElem?, if_pos h]
      rfl
    | succ i =>
      rw [List.getElem?_append_right (by rw [bitsOf_length, Nat.mul_succ]; omega), bitsOf_length,
        show n * (i + 1) + j - n = n * i + j by rw [Nat.mul_succ]; omega, ih]
      rfl

theorem flatMap_bitsOf_length (n : Nat) (vs : List Nat) : (vs.flatMap (bitsOf n)).length = n * vs.length := by
  simp [List.length_flatMap, Nat.mul_comm]

/-! ### Cutting pieces of `n` bits -/

/-- Induction along a cut: a last piece shorter than `n` bits, or one whole piece and the rest. -/
theorem pieces_induction {n : Nat} (hn : 0 < n) {motive : List Bool → Prop} (short : ∀ l, l.length < n → motive l)
    (piece : ∀ l rest, l.length = n → motive rest → motive (l ++ rest)) (bits : List Bool) : motive bits := by
  by_cases hlt : bits.length < n
  · exact short bits hlt
  · rw [← List.take_append_drop n bits]
    exact piece _ _ (List.length_take_of_le (Nat.not_lt.mp hlt)) (pieces_induction hn short piece (bits.drop n))
termination_by bits.length
decreasing_by simp only [List.length_drop]; omega

theorem bytesOfBits_append {l : List Bool} (h : l.length = 8) (rest : List Bool) :
    bytesOfBits (l ++ rest) = BitVec.ofNat 8 (ofBits l) :: bytesOfBits rest := by
  match l, h with
  | [_, _, _, _, _, _, _, _], _ => rfl

theorem bytesOfBits_eq_nil {l : List Bool} (h : l.length < 8) : bytesOfBits l = [] := by
  rw [← List.length_eq_zero_iff, bytesOfBits_length, Nat.div_eq_of_lt h]

theorem groupsOfBits_append {l : List Bool} (h : l.length = 5) (rest : List Bool) :
    groupsOfBits (l ++ rest) = ofBits l :: groupsOfBits rest := by
  match l, h with
  | [_, _, _, _, _], _ => rfl

/-- A last group of fewer than 5 bits is zero-padded on the right (R91). -/
theorem groupsOfBits_padded {l : List Bool} (hpos : 0 < l.length) (hlt : l.length < 5) :
    groupsOfBits l = [ofBits (l ++ List.replicate (5 - l.length) false)] := by
  match l, hpos, hlt with
  | [_], _, _ | [_, _], _, _ | [_, _, _], _, _ | [_, _, _, _], _, _ => rfl

/-! ### Bytes (R43, R94) -/

@[simp] theorem byteBits_length (b : Byte) : (byteBits b).length = 8 := bitsOf_length 8 _

theorem ofNat_ofBits_byteBits (b : Byte) : BitVec.ofNat 8 (ofBits (byteBits b)) = b := by
  rw [byteBits, ofBits_bitsOf b.isLt, BitVec.ofNat_toNat, BitVec.setWidth_eq]

/-- The bytes of a bit string that begins with whole bytes. -/
theorem bytesOfBits_bytesBits_append (bs : List Byte) (rest : List Bool) :
    bytesOfBits (bytesBits bs ++ rest) = bs ++ bytesOfBits rest := by
  induction bs with
  | nil => rfl
  | cons b bs ih =>
    have hsplit : bytesBits (b :: bs) ++ rest = byteBits b ++ (bytesBits bs ++ rest) := List.append_assoc _ _ _
    rw [hsplit, bytesOfBits_append (byteBits_length b), ih, ofNat_ofBits_byteBits, List.cons_append]

/-- The bits of the bytes are the string without its last piece. -/
theorem bytesBits_bytesOfBits (bits : List Bool) :
    bytesBits (bytesOfBits bits) = bits.take (8 * (bits.length / 8)) := by
  induction bits using pieces_induction (n := 8) (by decide) with
  | short l h => rw [bytesOfBits_eq_nil h, Nat.div_eq_of_lt h]; rfl
  | piece l rest h ih =>
    have hbyte : byteBits (BitVec.ofNat 8 (ofBits l)) = l := by
      have hlt : ofBits l < 2 ^ 8 := h ▸ ofBits_lt l
      rw [byteBits, BitVec.toNat_ofNat, Nat.mod_eq_of_lt hlt, ← h, bitsOf_ofBits]
    calc bytesBits (bytesOfBits (l ++ rest)) = byteBits (BitVec.ofNat 8 (ofBits l)) ++ bytesBits (bytesOfBits rest) := by
          rw [bytesOfBits_append h]; rfl
      _ = l ++ rest.take (8 * (rest.length / 8)) := by rw [hbyte, ih]
      _ = (l ++ rest).take (l.length + 8 * (rest.length / 8)) := (List.take_length_add_append _).symm
      _ = (l ++ rest).take (8 * ((l ++ rest).length / 8)) := by rw [List.length_append]; congr 1; omega

/-- Bit 8·i + j of the string is bit 7 - j of byte i. -/
theorem bytesOfBits_getLsbD {bits : List Bool} {i j : Nat} (hi : i < bits.length / 8) (hj : j < 8) :
    ((bytesOfBits bits).getD i 0).getLsbD (7 - j) = bits.getD (8 * i + j) false := by
  have hbit := bytesBits_getElem? (bytesOfBits bits) i j hj
  have hlen : i < (bytesOfBits bits).length := by rwa [bytesOfBits_length]
  rw [bytesBits_bytesOfBits, List.getElem?_take_of_lt (by omega), List.getElem?_eq_getElem hlen] at hbit
  rw [List.getD_eq_getElem?_getD, List.getD_eq_getElem?_getD, hbit, List.getElem?_eq_getElem hlen]
  rfl

/-! ### 5-bit groups (R91) -/

theorem groupsOfBits_length (bits : List Bool) : (groupsOfBits bits).length = (bits.length + 4) / 5 := by
  induction bits using pieces_induction (n := 5) (by decide) with
  | short l hlt =>
    obtain hzero | hpos := Nat.eq_zero_or_pos l.length
    · obtain rfl := List.length_eq_zero_iff.mp hzero; rfl
    · rw [groupsOfBits_padded hpos hlt, List.length_singleton]; omega
  | piece l rest h ih => rw [groupsOfBits_append h, List.length_cons, List.length_append, ih]; omega

theorem lt_of_mem_groupsOfBits (bits : List Bool) : ∀ v ∈ groupsOfBits bits, v < 32 := by
  induction bits using pieces_induction (n := 5) (by decide) with
  | short l hlt =>
    obtain hzero | hpos := Nat.eq_zero_or_pos l.length
    · obtain rfl := List.length_eq_zero_iff.mp hzero; simp [groupsOfBits]
    · intro v hv
      rw [groupsOfBits_padded hpos hlt, List.mem_singleton] at hv
      have hbound := ofBits_lt (l ++ List.replicate (5 - l.length) false)
      rwa [List.length_append, List.length_replicate, Nat.add_sub_cancel' hlt.le, ← hv] at hbound
  | piece l rest h ih =>
    have hhead : ofBits l < 2 ^ 5 := h ▸ ofBits_lt l
    rw [groupsOfBits_append h, List.forall_mem_cons]
    exact ⟨hhead, ih⟩

/-- The bits of the groups are the string and the padding of the last group. -/
theorem flatMap_bitsOf_groupsOfBits (bits : List Bool) :
    (groupsOfBits bits).flatMap (bitsOf 5) = bits ++ List.replicate (5 * ((bits.length + 4) / 5) - bits.length) false := by
  induction bits using pieces_induction (n := 5) (by decide) with
  | short l hlt =>
    obtain hzero | hpos := Nat.eq_zero_or_pos l.length
    · obtain rfl := List.length_eq_zero_iff.mp hzero; rfl
    · have hlen : (l ++ List.replicate (5 - l.length) false).length = 5 := by simp; omega
      rw [groupsOfBits_padded hpos hlt, List.flatMap_singleton, show 5 * ((l.length + 4) / 5) = 5 by omega]
      exact (congrArg (bitsOf · _) hlen).symm.trans (bitsOf_ofBits _)
  | piece l rest h ih =>
    have hhead : bitsOf 5 (ofBits l) = l := h ▸ bitsOf_ofBits l
    rw [groupsOfBits_append h, List.flatMap_cons, hhead, ih, List.append_assoc, List.length_append]
    congr 3
    omega

/-- Bit 4 - j of group i is bit 5·i + j of the string, or padding beyond its end. -/
theorem groupsOfBits_testBit (bits : List Bool) {i j : Nat} (hi : i < (groupsOfBits bits).length) (hj : j < 5) :
    (groupsOfBits bits)[i].testBit (4 - j) = bits.getD (5 * i + j) false := by
  have hbit := flatMap_bitsOf_getElem? hj (groupsOfBits bits) i
  rw [flatMap_bitsOf_groupsOfBits, List.getElem?_eq_getElem hi, Option.map_some] at hbit
  rw [List.getD_eq_getElem?_getD]
  by_cases hin : 5 * i + j < bits.length
  · rw [List.getElem?_append_left hin] at hbit
    rw [hbit]; rfl
  · rw [List.getElem?_append_right (by omega), List.getElem?_replicate] at hbit
    rw [List.getElem?_eq_none (by omega)]
    split at hbit
    · exact (Option.some.inj hbit).symm
    · simp at hbit

end Sys2Proof.Machine
end

section
/-! The characters of base32 (41_base32.md R90, R92, R93) and what the two functions on sequences make of them (R91, R94). -/

namespace Sys2Proof.Machine

/-! ### The alphabet (R90) -/

/-- The alphabet run by run: the digits and the capital letters without I, L, O and U. -/
theorem alphabetCode_setWidth : ∀ v < 32, (alphabetCode v).setWidth 32 =
    if v < 10 then BitVec.ofNat 32 (0x30 + v)
    else if v < 18 then BitVec.ofNat 32 (0x41 + (v - 10))
    else if v < 20 then BitVec.ofNat 32 (0x4A + (v - 18))
    else if v < 22 then BitVec.ofNat 32 (0x4D + (v - 20))
    else if v < 27 then BitVec.ofNat 32 (0x50 + (v - 22))
    else BitVec.ofNat 32 (0x56 + (v - 27)) := by decide

theorem asciiAlnum_alphabetCode : ∀ v < 32, asciiAlnum (alphabetCode v) = true := by decide

theorem alphabetCode_isCapital : ∀ v < 32, 10 ≤ v → 0x41 ≤ (alphabetCode v).toNat ∧ (alphabetCode v).toNat ≤ 0x5A := by decide

/-! ### The tolerant value of a character (R92, R93) -/

theorem b32Value_alphabetCode : ∀ v < 32, b32Value (alphabetCode v) = some v := by decide

theorem b32Value_lt {ch : Byte} {v : Nat} (h : b32Value ch = some v) : v < 32 := by
  obtain ⟨hlt, -⟩ := List.idxOf?_eq_some_iff.mp h
  exact hlt

theorem toNat_add_case {ch : Byte} (hhi : ch.toNat ≤ 0x5A) : (ch + 0x20).toNat = ch.toNat + 0x20 := by
  rw [BitVec.toNat_add, Nat.mod_eq_of_lt (by simp; omega)]
  rfl

theorem upperCode_capital_add {ch : Byte} (hlo : 0x41 ≤ ch.toNat) (hhi : ch.toNat ≤ 0x5A) : upperCode (ch + 0x20) = ch := by
  have hsmall := toNat_add_case hhi
  rw [upperCode, if_pos (by omega)]
  exact BitVec.add_sub_cancel ch 0x20

theorem upperCode_capital {ch : Byte} (hhi : ch.toNat ≤ 0x5A) : upperCode ch = ch :=
  if_neg fun h => by omega

/-- The case of a letter does not change its value. -/
theorem b32Value_capital_add {ch : Byte} (hlo : 0x41 ≤ ch.toNat) (hhi : ch.toNat ≤ 0x5A) :
    b32Value (ch + 0x20) = b32Value ch := by
  rw [b32Value, b32Value, upperCode_capital_add hlo hhi, upperCode_capital hhi]

/-- The confusable map at work: 0, 1 and V with the characters read as them. -/
theorem b32Value_confusable :
    ∀ p ∈ [(0x30, 0x4F), (0x30, 0x6F), (0x31, 0x49), (0x31, 0x69), (0x31, 0x4C), (0x31, 0x6C), (0x56, 0x55), (0x56, 0x75)],
      asciiAlnum (BitVec.ofNat 8 p.2) = asciiAlnum (BitVec.ofNat 8 p.1) ∧
        b32Value (BitVec.ofNat 8 p.2) = b32Value (BitVec.ofNat 8 p.1) := by decide

/-! ### Which characters have a value (R92, R93) -/

theorem asciiAlnum_iff {ch : Byte} : asciiAlnum ch = true ↔
    (0x30 ≤ ch.toNat ∧ ch.toNat ≤ 0x39) ∨ (0x41 ≤ ch.toNat ∧ ch.toNat ≤ 0x5A) ∨ (0x61 ≤ ch.toNat ∧ ch.toNat ≤ 0x7A) :=
  decide_eq_true_iff

theorem asciiAlnum_capital_add {ch : Byte} (hlo : 0x41 ≤ ch.toNat) (hhi : ch.toNat ≤ 0x5A) :
    asciiAlnum (ch + 0x20) = asciiAlnum ch := by
  have hsmall := toNat_add_case hhi
  rw [asciiAlnum_iff.mpr (.inr (.inl ⟨hlo, hhi⟩)), asciiAlnum_iff]
  omega

/-- Letters and digits become digits and capital letters. -/
theorem upperCode_of_asciiAlnum {ch : Byte} (h : asciiAlnum ch = true) :
    (upperCode ch).toNat ∈ List.range' 0x30 10 ++ List.range' 0x41 26 := by
  rw [asciiAlnum_iff] at h
  rw [List.mem_append, List.mem_range'_1, List.mem_range'_1, upperCode]
  split
  next hsmall =>
    rw [BitVec.toNat_sub_of_le (BitVec.le_def.mpr (by simp; omega)), show (0x20 : Byte).toNat = 0x20 from rfl]
    omega
  next => omega

/-- Every digit and capital letter has a place in the alphabet or is confusable with a symbol of it. -/
theorem alphabetIndex_confusableMap_isSome : ∀ n ∈ List.range' 0x30 10 ++ List.range' 0x41 26,
    (alphabetIndex (confusableMap (BitVec.ofNat 8 n))).isSome = true := by decide

/-- The value of a letter or digit; 0 for a character that has none. -/
def symbolValue (ch : Byte) : Nat := (b32Value ch).getD 0

theorem symbolValue_alphabetCode {v : Nat} (h : v < 32) : symbolValue (alphabetCode v) = v :=
  congrArg (·.getD 0) (b32Value_alphabetCode v h)

theorem b32Value_of_asciiAlnum {ch : Byte} (h : asciiAlnum ch = true) : b32Value ch = some (symbolValue ch) := by
  have hsome := alphabetIndex_confusableMap_isSome _ (upperCode_of_asciiAlnum h)
  rw [BitVec.ofNat_toNat, BitVec.setWidth_eq] at hsome
  obtain ⟨v, hv⟩ := Option.isSome_iff_exists.mp hsome
  rw [symbolValue, b32Value, hv, Option.getD_some]

theorem alphabetCodes_all_asciiAlnum : alphabetCodes.all asciiAlnum = true := by decide

theorem confusablePairs_all_asciiAlnum : (confusablePairs.all fun p => asciiAlnum p.1) = true := by decide

/-- What is no letter and no digit passes through both maps unchanged and is no symbol. -/
theorem b32Value_of_not_asciiAlnum {ch : Byte} (h : ¬ asciiAlnum ch = true) : b32Value ch = none := by
  have hupper : upperCode ch = ch := if_neg fun hsmall => h (asciiAlnum_iff.mpr (.inr (.inr hsmall)))
  have hfind : confusablePairs.find? (fun p => p.1 == ch) = none := List.find?_eq_none.mpr fun p hp heq =>
    h (eq_of_beq heq ▸ List.all_eq_true.mp confusablePairs_all_asciiAlnum p hp)
  have hmap : confusableMap ch = ch := by rw [confusableMap, hfind]
  rw [b32Value, hupper, hmap, alphabetIndex, List.idxOf?_eq_none_iff]
  exact fun hmem => h (List.all_eq_true.mp alphabetCodes_all_asciiAlnum ch hmem)

/-! ### Encoding a sequence (R91) -/

theorem b32Encode_length (bytes : List Byte) : (b32Encode bytes).length = (8 * bytes.length + 4) / 5 := by
  rw [b32Encode, List.length_map, groupsOfBits_length, bytesBits_length]

/-- Every symbol written is a letter or a digit. -/
theorem asciiAlnum_of_mem_b32Encode {bytes : List Byte} {ch : Byte} (h : ch ∈ b32Encode bytes) : asciiAlnum ch = true := by
  obtain ⟨v, hv, rfl⟩ := List.mem_map.mp h
  exact asciiAlnum_alphabetCode v (lt_of_mem_groupsOfBits _ v hv)

/-! ### Decoding a sequence (R94) -/

theorem mapM_eq_some_map {α β : Type} {f : α → Option β} {g : α → β} {l : List α} (h : ∀ a ∈ l, f a = some (g a)) :
    l.mapM f = some (l.map g) := by
  induction l with
  | nil => rfl
  | cons a l ih =>
    obtain ⟨ha, hl⟩ := List.forall_mem_cons.mp h
    rw [List.mapM_cons, ha, ih hl]
    rfl

/-- With the block's predicate no character makes decoding fail. -/
theorem b32Decode_asciiAlnum (chars : List Byte) : b32Decode asciiAlnum chars =
    some (bytesOfBits (((chars.filter asciiAlnum).map symbolValue).flatMap (bitsOf 5))) := by
  have hvalues := mapM_eq_some_map fun ch h => b32Value_of_asciiAlnum (List.of_mem_filter (l := chars) h)
  rw [b32Decode, hvalues, Option.map_some]

/-- What was encoded comes back (R99): the symbols' values are the groups, whose bits are the bytes' bits and fewer than
8 bits of padding. -/
theorem b32Decode_b32Encode (bytes : List Byte) : b32Decode asciiAlnum (b32Encode bytes) = some bytes := by
  have hkept : (b32Encode bytes).filter asciiAlnum = b32Encode bytes :=
    List.filter_eq_self.mpr fun _ h => asciiAlnum_of_mem_b32Encode h
  have hvalues : (b32Encode bytes).map symbolValue = groupsOfBits (bytesBits bytes) := by
    rw [b32Encode, List.map_map]
    exact (List.map_congr_left fun v hv => symbolValue_alphabetCode (lt_of_mem_groupsOfBits _ v hv)).trans (List.map_id _)
  rw [b32Decode_asciiAlnum, hkept, hvalues, flatMap_bitsOf_groupsOfBits, bytesOfBits_bytesBits_append,
    bytesOfBits_eq_nil (by rw [List.length_replicate]; omega), List.append_nil]

/-- A character that is not kept can be inserted or removed anywhere (R100). -/
theorem b32Decode_insert_dropped {isAlnum : Byte → Bool} {ch : Byte} (h : isAlnum ch = false) (pre post : List Byte) :
    b32Decode isAlnum (pre ++ ch :: post) = b32Decode isAlnum (pre ++ post) := by
  rw [b32Decode, b32Decode, List.filter_append, List.filter_append, List.filter_cons_of_neg (Bool.eq_false_iff.mp h)]

/-- One character can stand for another that is kept alike and has the same value (R100). -/
theorem b32Decode_replace {isAlnum : Byte → Bool} {c d : Byte} (hkept : isAlnum c = isAlnum d)
    (hvalue : b32Value c = b32Value d) (pre post : List Byte) :
    b32Decode isAlnum (pre ++ c :: post) = b32Decode isAlnum (pre ++ d :: post) := by
  have hmapM : ((c :: post).filter isAlnum).mapM b32Value = ((d :: post).filter isAlnum).mapM b32Value := by
    rw [List.filter_cons, List.filter_cons, hkept]
    split
    · rw [List.mapM_cons, List.mapM_cons, hvalue]
    · rfl
  rw [b32Decode, b32Decode, List.filter_append, List.filter_append, List.mapM_append, List.mapM_append, hmapM]

end Sys2Proof.Machine
end

section
/-! The accumulator loops of R91 and R94 against the bit strings: the accumulator holds the bits taken in and not yet
written out (41_base32.md R91, R94). -/

namespace Sys2Proof.Machine

open Claims (Acc drainSymbols encodeLoop decodeLoop)

/-- The working values of a loop that has written `out` and holds the bits `pending` (R91, R94). -/
def accHolding (out : List Byte) (pending : List Bool) : Acc := ⟨ofBits pending, pending.length, out⟩

/-- The symbols of a bit string (R91). -/
def symbolsOfBits (bits : List Bool) : List Byte := (groupsOfBits bits).map alphabetCode

theorem symbolsOfBits_append {l : List Bool} (h : l.length = 5) (rest : List Bool) :
    symbolsOfBits (l ++ rest) = alphabetCode (ofBits l) :: symbolsOfBits rest := by
  rw [symbolsOfBits, groupsOfBits_append h]
  rfl

/-! ### Encoding (R91) -/

theorem drainSymbols_of_lt {pending : List Bool} (h : pending.length < 5) (fuel : Nat) (out : List Byte) :
    drainSymbols fuel (accHolding out pending) = accHolding out pending := by
  cases fuel with
  | zero => rfl
  | succ fuel => exact if_neg (Nat.not_le.mpr h)

/-- One turn writes the symbol of the five leading bits and keeps the others. -/
theorem drainSymbols_append {l : List Bool} (h : l.length = 5) (fuel : Nat) (out : List Byte) (rest : List Bool) :
    drainSymbols (fuel + 1) (accHolding out (l ++ rest)) =
      drainSymbols fuel (accHolding (out ++ [alphabetCode (ofBits l)]) rest) := by
  have hlen : (l ++ rest).length - 5 = rest.length := by rw [List.length_append]; omega
  have hle : 5 ≤ (l ++ rest).length := by rw [List.length_append]; omega
  have hsymbol : ofBits l &&& 0x1F = ofBits l := ofBits_and_mask h
  simp only [drainSymbols, accHolding, if_pos hle, hlen, ofBits_append_shiftRight, ofBits_append_and_mask, hsymbol]

/-- With turns enough the loop stops with fewer than five bits, having written the symbols of the others: what comes after
them is grouped as if nothing had been written. -/
theorem drainSymbols_spec (fuel : Nat) : ∀ (out : List Byte) (pending : List Bool), pending.length < 5 * (fuel + 1) →
    ∃ out' pending', drainSymbols fuel (accHolding out pending) = accHolding out' pending' ∧ pending'.length < 5 ∧
      ∀ rest, out' ++ symbolsOfBits (pending' ++ rest) = out ++ symbolsOfBits (pending ++ rest) := by
  induction fuel with
  | zero => exact fun out pending h => ⟨out, pending, rfl, h, fun _ => rfl⟩
  | succ fuel ih =>
    intro out pending hfuel
    by_cases hlt : pending.length < 5
    · exact ⟨out, pending, drainSymbols_of_lt hlt _ _, hlt, fun _ => rfl⟩
    · have hl : (pending.take 5).length = 5 := List.length_take_of_le (Nat.not_lt.mp hlt)
      obtain ⟨out', pending', hdrain, hshort, hsymbols⟩ :=
        ih (out ++ [alphabetCode (ofBits (pending.take 5))]) (pending.drop 5) (by rw [List.length_drop]; omega)
      refine ⟨out', pending', ?_, hshort, fun rest => ?_⟩
      · rw [← hdrain, ← drainSymbols_append hl, List.take_append_drop]
      · rw [hsymbols, List.append_assoc, List.singleton_append, ← symbolsOfBits_append hl, ← List.append_assoc,
          List.take_append_drop]

/-- What `encodeLoop` does with one byte. -/
def encodeTurn (s : Acc) (b : Byte) : Acc := drainSymbols 3 { s with acc := (s.acc <<< 8) ||| b.toNat, nbits := s.nbits + 8 }

/-- A byte's bits are put behind those held before the loop writes symbols. -/
theorem encodeTurn_accHolding (out : List Byte) (pending : List Bool) (b : Byte) :
    encodeTurn (accHolding out pending) b = drainSymbols 3 (accHolding out (pending ++ byteBits b)) := by
  simp only [encodeTurn, accHolding, byteBits, ofBits_append_bitsOf pending b.isLt, List.length_append, bitsOf_length]

/-- The loop over the bytes keeps the invariant: fewer than five bits held, and written and held together the symbols of
all the bits taken in. -/
theorem foldl_encodeTurn (bytes : List Byte) : ∀ (out : List Byte) (pending : List Bool), pending.length < 5 →
    ∃ out' pending', bytes.foldl encodeTurn (accHolding out pending) = accHolding out' pending' ∧ pending'.length < 5 ∧
      out' ++ symbolsOfBits pending' = out ++ symbolsOfBits (pending ++ bytesBits bytes) := by
  induction bytes with
  | nil => exact fun out pending h => ⟨out, pending, rfl, h, by rw [bytesBits, List.flatMap_nil, List.append_nil]⟩
  | cons b bytes ih =>
    intro out pending hlt
    have hlen : (pending ++ byteBits b).length < 5 * (3 + 1) := by rw [List.length_append, byteBits_length]; omega
    obtain ⟨out₁, pending₁, hdrain, hshort₁, hsymbols₁⟩ := drainSymbols_spec 3 out _ hlen
    obtain ⟨out', pending', hfold, hshort, hsymbols⟩ := ih out₁ pending₁ hshort₁
    refine ⟨out', pending', ?_, hshort, ?_⟩
    · rw [List.foldl_cons, encodeTurn_accHolding, hdrain, hfold]
    · rw [hsymbols, hsymbols₁, List.append_assoc]
      rfl

/-- What `encodeLoop` does after the last byte. -/
def encodeFlush (s : Acc) : List Byte :=
  if 0 < s.nbits then s.out ++ [alphabetCode ((s.acc <<< (5 - s.nbits)) &&& 0x1F)] else s.out

theorem encodeLoop_eq_flush (bytes : List Byte) :
    encodeLoop bytes = encodeFlush (bytes.foldl encodeTurn (accHolding [] [])) := rfl

/-- The last group of fewer than 5 bits is shifted up, and the zeros shifted in are its padding. -/
theorem encodeFlush_accHolding {pending : List Bool} (h : pending.length < 5) (out : List Byte) :
    encodeFlush (accHolding out pending) = out ++ symbolsOfBits pending := by
  obtain hzero | hpos := Nat.eq_zero_or_pos pending.length
  · obtain rfl := List.length_eq_zero_iff.mp hzero
    exact (List.append_nil out).symm
  · have hlen : (pending ++ List.replicate (5 - pending.length) false).length = 5 := by
      rw [List.length_append, List.length_replicate]; omega
    have hgroup : (ofBits pending <<< (5 - pending.length)) &&& 0x1F =
        ofBits (pending ++ List.replicate (5 - pending.length) false) := by
      rw [← ofBits_append_zeros]
      exact ofBits_and_mask hlen
    simp only [encodeFlush, accHolding, if_pos hpos, hgroup, symbolsOfBits, groupsOfBits_padded hpos h, List.map_singleton]

theorem encodeLoop_eq (bytes : List Byte) : encodeLoop bytes = b32Encode bytes := by
  obtain ⟨out, pending, hfold, hshort, hsymbols⟩ := foldl_encodeTurn bytes [] [] (by decide)
  rw [encodeLoop_eq_flush, hfold, encodeFlush_accHolding hshort, hsymbols]
  rfl

/-! ### Decoding (R94) -/

/-- What `decodeLoop` does with the value of one kept character. -/
def decodeTurn (s : Acc) (v : Nat) : Acc :=
  let acc := (s.acc <<< 5) ||| v
  let nbits := s.nbits + 5
  if 8 ≤ nbits then
    { acc := acc &&& ((1 <<< (nbits - 8)) - 1), nbits := nbits - 8,
      out := s.out ++ [BitVec.ofNat 8 ((acc >>> (nbits - 8)) &&& 0xFF)] }
  else { s with acc := acc, nbits := nbits }

theorem decodeLoop_dropped {isAlnum : Byte → Bool} {ch : Byte} (h : ¬ isAlnum ch = true) (chars : List Byte) (s : Acc) :
    decodeLoop isAlnum (ch :: chars) s = decodeLoop isAlnum chars s := if_neg h

theorem decodeLoop_kept {isAlnum : Byte → Bool} {ch : Byte} (h : isAlnum ch = true) (chars : List Byte) (s : Acc) :
    decodeLoop isAlnum (ch :: chars) s = (b32Value ch).bind fun v => decodeLoop isAlnum chars (decodeTurn s v) := by
  rw [decodeLoop, if_pos h]
  cases b32Value ch with
  | none => rfl
  | some v => exact (apply_ite (decodeLoop isAlnum chars) _ _ _).symm

/-- One turn puts the value's five bits behind those held and writes the eight leading ones if there are so many. -/
theorem decodeTurn_accHolding {pending : List Bool} (hlt : pending.length < 8) {v : Nat} (hv : v < 32) (out : List Byte) :
    ∃ out' pending', decodeTurn (accHolding out pending) v = accHolding out' pending' ∧ pending'.length < 8 ∧
      ∀ rest, out' ++ bytesOfBits (pending' ++ rest) = out ++ bytesOfBits (pending ++ bitsOf 5 v ++ rest) := by
  have hlen : (pending ++ bitsOf 5 v).length = pending.length + 5 := by rw [List.length_append, bitsOf_length]
  have hacc : (ofBits pending <<< 5) ||| v = ofBits (pending ++ bitsOf 5 v) := (ofBits_append_bitsOf pending hv).symm
  by_cases hbyte : 8 ≤ pending.length + 5
  · obtain ⟨l, rest', hl, hsplit⟩ : ∃ l rest', l.length = 8 ∧ pending ++ bitsOf 5 v = l ++ rest' :=
      ⟨_, _, List.length_take_of_le (hlen ▸ hbyte), (List.take_append_drop 8 _).symm⟩
    have hrest : pending.length + 5 - 8 = rest'.length := by
      rw [← hlen, hsplit, List.length_append, hl, Nat.add_sub_cancel_left]
    have hmask : ofBits l &&& 0xFF = ofBits l := ofBits_and_mask hl
    refine ⟨out ++ [BitVec.ofNat 8 (ofBits l)], rest', ?_, by omega, fun rest => ?_⟩
    · simp only [decodeTurn, accHolding, if_pos hbyte, hacc, hsplit, hrest, ofBits_append_shiftRight,
        ofBits_append_and_mask, hmask]
    · rw [hsplit, List.append_assoc, List.append_assoc, bytesOfBits_append hl, List.singleton_append]
  · refine ⟨out, pending ++ bitsOf 5 v, ?_, by omega, fun _ => rfl⟩
    simp only [decodeTurn, accHolding, if_neg hbyte, hacc, hlen]

/-- The loop from a state that holds fewer than eight bits: written and held together decode as the bits taken in. -/
theorem decodeLoop_accHolding (isAlnum : Byte → Bool) (chars : List Byte) : ∀ (out : List Byte) (pending : List Bool),
    pending.length < 8 → decodeLoop isAlnum chars (accHolding out pending) =
      ((chars.filter isAlnum).mapM b32Value).map fun vs => out ++ bytesOfBits (pending ++ vs.flatMap (bitsOf 5)) := by
  induction chars with
  | nil =>
    intro out pending hlt
    have hfragment : bytesOfBits (pending ++ []) = [] := by rw [List.append_nil, bytesOfBits_eq_nil hlt]
    exact congrArg some ((congrArg (out ++ ·) hfragment).trans (List.append_nil out)).symm
  | cons ch chars ih =>
    intro out pending hlt
    by_cases hkept : isAlnum ch = true
    · rw [decodeLoop_kept hkept, List.filter_cons_of_pos hkept, List.mapM_cons]
      cases hvalue : b32Value ch with
      | none => rfl
      | some v =>
        obtain ⟨out', pending', hturn, hshort, hbytes⟩ := decodeTurn_accHolding hlt (b32Value_lt hvalue) out
        rw [Option.bind_some, hturn, ih out' pending' hshort]
        cases (chars.filter isAlnum).mapM b32Value with
        | none => rfl
        | some vs => exact congrArg some ((hbytes _).trans (by rw [List.append_assoc]; rfl))
    · rw [decodeLoop_dropped hkept, List.filter_cons_of_neg hkept, ih out pending hlt]

theorem decodeLoop_eq (isAlnum : Byte → Bool) (chars : List Byte) :
    decodeLoop isAlnum chars ⟨0, 0, []⟩ = b32Decode isAlnum chars :=
  decodeLoop_accHolding isAlnum chars [] [] (by decide)

end Sys2Proof.Machine
end

section
/-! What the four base32 commands do in each of their cases (41_base32.md R95 to R98), and the bytes they leave. -/

namespace Sys2Proof.Machine

/-! ### Ranges of the buffer space -/

theorem Memory.read_writeRange_of_lt (m : Memory) {base i : Nat} {bs : List Byte} (h : i < bs.length)
    (hmapped : mapped (base + i) = true) : (m.writeRange base bs).read (base + i) = bs.getD i 0 := by
  rw [Memory.read_writeRange, if_pos ⟨Nat.le_add_right _ _, Nat.add_lt_add_left h _, hmapped⟩, Nat.add_sub_cancel_left]

theorem Memory.read_writeRange_of_outside (m : Memory) {base a : Nat} {bs : List Byte}
    (h : ¬ (base ≤ a ∧ a < base + bs.length)) : (m.writeRange base bs).read a = m.read a := by
  rw [Memory.read_writeRange, if_neg fun ⟨hle, hlt, _⟩ => h ⟨hle, hlt⟩]

theorem Memory.readRange_writeRange_self (m : Memory) {base : Nat} {bs : List Byte}
    (hmapped : ∀ i < bs.length, mapped (base + i) = true) : (m.writeRange base bs).readRange base bs.length = bs := by
  refine List.ext_getElem (Memory.readRange_length _ _ _) fun i _ hi => ?_
  rw [← List.getD_eq_getElem _ 0, Memory.readRange_getD _ _ _ _ hi, Memory.read_writeRange_of_lt m hi (hmapped i hi),
    List.getD_eq_getElem]

theorem mapped_symsBase_add {i : Nat} (h : i < 32) : mapped (symsBase + i) = true :=
  (mapped_iff _).mpr (by rw [symsBase]; omega)

theorem mapped_bytesBase_add {i : Nat} (h : i < 20) : mapped (bytesBase + i) = true :=
  (mapped_iff _).mpr (by rw [bytesBase]; omega)

@[simp] theorem State.bytesList_length (s : State) (off len : Nat) : (s.bytesList off len).length = len :=
  Memory.readRange_length _ _ _

@[simp] theorem State.symsList_length (s : State) (n : Nat) : (s.symsList n).length = n :=
  Memory.readRange_length _ _ _

theorem State.bytesList_getElem? (s : State) {off len i : Nat} (h : i < len) :
    (s.bytesList off len)[i]? = some (s.bytes (off + i)) := by
  simp [State.bytesList, Memory.readRange, State.bytes, h, Nat.add_assoc]

/-- The bits of a range of BYTES, and none beyond it. -/
theorem State.bytesBits_bytesList_getD (s : State) (off len k : Nat) : (bytesBits (s.bytesList off len)).getD k false =
    if k < 8 * len then (s.bytes (off + k / 8)).getLsbD (7 - k % 8) else false := by
  rw [List.getD_eq_getElem?_getD]
  split
  next hin =>
    have hbit := bytesBits_getElem? (s.bytesList off len) (k / 8) (k % 8) (Nat.mod_lt k (by decide))
    rw [Nat.div_add_mod, s.bytesList_getElem? (by omega)] at hbit
    rw [hbit, Option.map_some, Option.getD_some]
  next hout => rw [List.getElem?_eq_none (by simpa using hout), Option.getD_none]

/-! ### Responses -/

/-- A count, as the response gives it (R63). -/
theorem responseWord_ok_value {n : Nat} (h : n < 2 ^ 24) : responseWord .ok (value n) = BitVec.ofNat 32 n := by
  rw [responseWord_ok, value, BitVec.setWidth_ofNat_of_le_of_lt (by decide) h]

theorem raise_invalidChar (s : State) : raise .invalidChar s = .next (s.withResponse 0x01000000#32) := rfl

/-! ### `B32.ENC` (R95) -/

/-- `s` after `B32.ENC off, len` with a range inside BYTES. -/
def State.encoded (s : State) (off len : Nat) : State :=
  (s.withBuf (s.buf.writeRange symsBase (b32Encode (s.bytesList off len)))).withResponse
    (BitVec.ofNat 32 ((8 * len + 4) / 5))

theorem exec_b32Enc_of_le {off len : Nat} (h : off + len ≤ 20) (s : State) :
    exec (.b32Enc off len) s = .next (s.encoded off len) := by
  have hrange : bytesRangeOk off len = true := decide_eq_true h
  have hcount : (b32Encode (s.bytesList off len)).length = (8 * len + 4) / 5 := by
    rw [b32Encode_length, State.bytesList_length]
  simp only [exec, execB32Enc, if_pos hrange, respond_eq, hcount,
    responseWord_ok_value (show (8 * len + 4) / 5 < 2 ^ 24 by omega), State.encoded]

theorem exec_b32Enc_of_lt {off len : Nat} (h : 20 < off + len) (s : State) :
    exec (.b32Enc off len) s = .next (s.withResponse 0x11000000#32) :=
  if_neg (show ¬ bytesRangeOk off len = true from fun hrange => Nat.not_le.mpr h (of_decide_eq_true hrange))

/-- SYMS holds the encoded range afterwards. -/
theorem State.symsList_encoded (s : State) {off len : Nat} (h : off + len ≤ 20) :
    (s.encoded off len).symsList ((8 * len + 4) / 5) = b32Encode (s.bytesList off len) := by
  have hcount : (8 * len + 4) / 5 = (b32Encode (s.bytesList off len)).length := by
    rw [b32Encode_length, State.bytesList_length]
  rw [hcount]
  exact Memory.readRange_writeRange_self s.buf fun i hi => mapped_symsBase_add (by omega)

/-! ### `B32.DEC` (R96) -/

/-- The characters `B32.DEC cnt` keeps (R94). -/
def State.keptSyms (s : State) (cnt : Nat) : List Byte := (s.symsList cnt).filter asciiAlnum

/-- The bytes `B32.DEC cnt` writes (R94). -/
def State.decodedSyms (s : State) (cnt : Nat) : List Byte :=
  bytesOfBits (((s.keptSyms cnt).map symbolValue).flatMap (bitsOf 5))

theorem State.keptSyms_length_le (s : State) (cnt : Nat) : (s.keptSyms cnt).length ≤ cnt :=
  (List.length_filter_le _ _).trans_eq (s.symsList_length cnt)

theorem State.decodedSyms_length (s : State) (cnt : Nat) :
    (s.decodedSyms cnt).length = 5 * (s.keptSyms cnt).length / 8 := by
  rw [State.decodedSyms, bytesOfBits_length, flatMap_bitsOf_length, List.length_map]

/-- Bit 8·i + j of the bytes is a bit of the character whose five bits hold it, and that character has a value. -/
theorem State.decodedSyms_getLsbD (s : State) {cnt i j : Nat} (hi : i < (s.decodedSyms cnt).length) (hj : j < 8) :
    ∃ v, b32Value ((s.keptSyms cnt).getD ((8 * i + j) / 5) 0) = some v ∧
      ((s.decodedSyms cnt).getD i 0).getLsbD (7 - j) = v.testBit (4 - (8 * i + j) % 5) := by
  have hlen := s.decodedSyms_length cnt
  have hchar : (8 * i + j) / 5 < (s.keptSyms cnt).length := by omega
  have hbit := flatMap_bitsOf_getElem? (Nat.mod_lt (8 * i + j) (show 0 < 5 by decide)) ((s.keptSyms cnt).map symbolValue)
    ((8 * i + j) / 5)
  rw [Nat.div_add_mod, List.getElem?_map, List.getElem?_eq_getElem hchar] at hbit
  refine ⟨symbolValue (s.keptSyms cnt)[(8 * i + j) / 5], ?_, ?_⟩
  · rw [List.getD_eq_getElem _ _ hchar]
    exact b32Value_of_asciiAlnum (List.of_mem_filter (List.getElem_mem hchar))
  · rw [State.decodedSyms, bytesOfBits_getLsbD (by rwa [← bytesOfBits_length]) hj, List.getD_eq_getElem?_getD, hbit]
    rfl

/-- `s` after `B32.DEC cnt` with at most 32 characters. -/
def State.decoded (s : State) (cnt : Nat) : State :=
  (s.withBuf (s.buf.writeRange bytesBase (s.decodedSyms cnt))).withResponse
    (BitVec.ofNat 32 (s.decodedSyms cnt).length)

theorem State.b32Decode_symsList (s : State) (cnt : Nat) :
    b32Decode asciiAlnum (s.symsList cnt) = some (s.decodedSyms cnt) := b32Decode_asciiAlnum _

theorem exec_b32Dec_of_le {cnt : Nat} (h : cnt ≤ 32) (s : State) : exec (.b32Dec cnt) s = .next (s.decoded cnt) := by
  have hcount : (s.decodedSyms cnt).length < 2 ^ 24 := by
    have hkept := s.keptSyms_length_le cnt
    rw [State.decodedSyms_length]
    omega
  have hcnt : cnt ≤ Config.sMax := h
  simp only [exec, execB32Dec, if_pos hcnt, s.b32Decode_symsList, respond_eq, responseWord_ok_value hcount, State.decoded]

theorem exec_b32Dec_of_lt {cnt : Nat} (h : 32 < cnt) (s : State) :
    exec (.b32Dec cnt) s = .next (s.withResponse 0x11000000#32) :=
  if_neg (show ¬ cnt ≤ Config.sMax from Nat.not_le.mpr h)

/-- BYTES holds the decoded bytes afterwards. -/
theorem State.bytes_decoded (s : State) {cnt i : Nat} (hcnt : cnt ≤ 32) (hi : i < (s.decodedSyms cnt).length) :
    (s.decoded cnt).bytes i = (s.decodedSyms cnt).getD i 0 := by
  have hkept := s.keptSyms_length_le cnt
  have hlen := s.decodedSyms_length cnt
  exact Memory.read_writeRange_of_lt s.buf hi (mapped_bytesBase_add (by omega))

/-! ### `B32.SYM` and `B32.VAL` (R97, R98) -/

theorem exec_b32Sym_of_lt {v : Nat} (h : v < 32) (s : State) :
    exec (.b32Sym v) s = .next (s.withResponse ((alphabetCode v).setWidth 32)) :=
  (if_pos (Nat.le_of_lt_succ h)).trans (respond_setWidth (by decide) _ s)

theorem exec_b32Sym_of_le {v : Nat} (h : 32 ≤ v) (s : State) :
    exec (.b32Sym v) s = .next (s.withResponse 0x11000000#32) :=
  if_neg (Nat.not_le.mpr h)

theorem exec_b32Val_of_some {ch : Byte} {v : Nat} (h : b32Value ch = some v) (s : State) :
    exec (.b32Val ch) s = .next (s.withResponse (BitVec.ofNat 32 v)) := by
  have hv : v < 2 ^ 24 := (b32Value_lt h).trans (by decide)
  simp only [exec, execB32Val, h, respond_eq, responseWord_ok_value hv]

theorem exec_b32Val_of_none {ch : Byte} (h : b32Value ch = none) (s : State) :
    exec (.b32Val ch) s = .next (s.withResponse 0x01000000#32) := by
  simp only [exec, execB32Val, h, raise_invalidChar]

end Sys2Proof.Machine
end

section
/-! The statements of 41_base32.md. -/

namespace Sys2Proof.Proofs.Base32

open Sys2Proof Sys2Proof.Machine

/-- Settles O12: symbol i is the alphabet's symbol of group i, whose bits are the bits of the bytes read or padding. -/
theorem base32EncodeWritesTheSymbols : Obligations.Base32EncodeWritesTheSymbols := by
  intro off len s
  refine ⟨fun hoff hlen => ?word, fun hrange => ?symbols, fun hrange => exec_b32Enc_of_lt hrange s⟩
  case word =>
    rw [← setWidth_field8 hlen]
    exact packBytes_formatAB 0x10 (field8 len) hoff
  case symbols =>
    have hcount : (b32Encode (s.bytesList off len)).length = (8 * len + 4) / 5 := by
      rw [b32Encode_length, State.bytesList_length]
    refine ⟨_, exec_b32Enc_of_le hrange s, s.onlyBufChanged_stored _ _, fun i hi => ?_, fun a ha => ?_⟩
    · have hgroup : i < (groupsOfBits (bytesBits (s.bytesList off len))).length := by
        rwa [groupsOfBits_length, bytesBits_length, State.bytesList_length]
      refine ⟨_, lt_of_mem_groupsOfBits _ _ (List.getElem_mem hgroup), ?_, fun j hj => ?_⟩
      · calc (s.encoded off len).syms i = (b32Encode (s.bytesList off len)).getD i 0 :=
              Memory.read_writeRange_of_lt s.buf (hcount ▸ hi) (mapped_symsBase_add (by omega))
          _ = alphabetCode (groupsOfBits (bytesBits (s.bytesList off len)))[i] := by
              rw [b32Encode, List.getD_eq_getElem _ _ (by rwa [List.length_map]), List.getElem_map]
      · rw [groupsOfBits_testBit _ hgroup hj, State.bytesBits_bytesList_getD]
    · exact Memory.read_writeRange_of_outside s.buf (hcount.symm ▸ ha)

/-- Settles O13: byte i is cut from the bits of the kept characters' values, and each of them has a value. -/
theorem base32DecodeWritesTheBytes : Obligations.Base32DecodeWritesTheBytes := by
  intro cnt s
  refine ⟨packBytes_formatA 0x11, fun hcnt => ?bytes, fun hcnt => exec_b32Dec_of_lt hcnt s⟩
  case bytes =>
    intro kept m
    have hm : (s.decodedSyms cnt).length = m := s.decodedSyms_length cnt
    refine ⟨s.decoded cnt, exec_b32Dec_of_le hcnt s, hm ▸ s.onlyBufChanged_stored _ _, fun i hi j hj => ?_, fun a ha => ?_⟩
    · rw [← hm] at hi
      rw [s.bytes_decoded hcnt hi]
      exact s.decodedSyms_getLsbD hi hj
    · exact Memory.read_writeRange_of_outside s.buf (hm ▸ ha)

/-- Settles O14, below 32 by the runs of the alphabet. -/
theorem base32SymbolIsTheAlphabet : Obligations.Base32SymbolIsTheAlphabet := by
  intro v s
  refine ⟨packBytes_formatA 0x12, ?_⟩
  by_cases hv : v < 32
  · rw [exec_b32Sym_of_lt hv, alphabetCode_setWidth v hv, if_pos hv]
  · rw [exec_b32Sym_of_le (Nat.not_lt.mp hv)]
    simp only [show ¬ v < 10 by omega, show ¬ v < 18 by omega, show ¬ v < 20 by omega, show ¬ v < 22 by omega,
      show ¬ v < 27 by omega, hv, if_false]

/-- Settles O15: the value of each character named, and none for the other codes. -/
theorem base32ValueIsTolerant : Obligations.Base32ValueIsTolerant := by
  intro ch s
  refine ⟨BitVec.or_zero.trans BitVec.or_zero, fun v hv hsymbol => ?symbol, fun hO => ?letterO, fun hIL => ?lettersIL,
    fun hU => ?letterU, fun hother => ?other⟩
  case symbol =>
    have hvalue := b32Value_alphabetCode v hv
    obtain rfl | ⟨hletter, rfl⟩ := hsymbol
    · exact exec_b32Val_of_some hvalue s
    · obtain ⟨hlo, hhi⟩ := alphabetCode_isCapital v hv hletter
      exact exec_b32Val_of_some ((b32Value_capital_add hlo hhi).trans hvalue) s
  case letterO => obtain rfl | rfl := hO <;> exact exec_b32Val_of_some (by decide) s
  case lettersIL => obtain rfl | rfl | rfl | rfl := hIL <;> exact exec_b32Val_of_some (by decide) s
  case letterU => obtain rfl | rfl := hU <;> exact exec_b32Val_of_some (by decide) s
  case other => exact exec_b32Val_of_none (b32Value_of_not_asciiAlnum (mt asciiAlnum_iff.mp hother)) s

/-- Settles O16; the two counts are those of the spec's rule. -/
theorem base32RoundTrip : Obligations.Base32RoundTrip := by
  intro bytes
  have hlen := b32Encode_length bytes
  exact ⟨b32Decode_b32Encode bytes, hlen, by omega⟩

/-- Settles O17: the characters `B32.DEC` reads are those `B32.ENC` has written, and they decode to the bytes it read. -/
theorem base32RoundTripOnThePort : Obligations.Base32RoundTripOnThePort := by
  intro off len s hrange
  have hbytes : (s.encoded off len).decodedSyms ((8 * len + 4) / 5) = s.bytesList off len := by
    apply Option.some_injective
    rw [← State.b32Decode_symsList, s.symsList_encoded hrange, b32Decode_b32Encode]
  refine ⟨_, _, exec_b32Enc_of_le hrange s, exec_b32Dec_of_le (by omega) _, ?_, fun i hi => ?_⟩
  · rw [State.decoded, hbytes, State.bytesList_length, State.withResponse_responses, State.withBuf_responses, State.encoded,
      State.withResponse_responses, State.withBuf_responses, List.append_assoc, List.singleton_append]
  · rw [State.bytes_decoded _ (by omega) (by rwa [hbytes, State.bytesList_length]), hbytes, List.getD_eq_getElem?_getD,
      s.bytesList_getElem? hi, Option.getD_some]

/-- Settles O18: a character that is not kept does not count, and the others count by their value. -/
theorem base32DecodeTolerance : Obligations.Base32DecodeTolerance := by
  intro pre post
  refine ⟨fun ch hch => ?dropped, fun ch hlo hhi => ?capital, fun p hp => ?confusable⟩
  case dropped => exact b32Decode_insert_dropped hch pre post
  case capital => exact b32Decode_replace (asciiAlnum_capital_add hlo hhi) (b32Value_capital_add hlo hhi) pre post
  case confusable =>
    obtain ⟨hkept, hvalue⟩ := b32Value_confusable p hp
    exact b32Decode_replace hkept hvalue pre post

/-- Settles O19, by the loop's invariant: written and held together are the symbols of the bits taken in. -/
theorem base32EncodeLoopAgrees : Obligations.Base32EncodeLoopAgrees := encodeLoop_eq

/-- Settles O20, by the loop's invariant: written and held together decode as the bits taken in. -/
theorem base32DecodeLoopAgrees : Obligations.Base32DecodeLoopAgrees := decodeLoop_eq

end Sys2Proof.Proofs.Base32
end

section
/-! What the checksum unit's fold makes of each bit of the hash, and what `CK5` does in each of its cases (42_checksum.md R105
to R107). -/

namespace Sys2Proof.Machine

open Claims (foldSigned)

/-! ### The fold (R105, R107) -/

/-- An arithmetic shift agrees with the logical one on every bit that comes from inside the word. -/
theorem getLsbD_sshiftRight_of_lt {w n i : Nat} (h : n + i < w) (v : BitVec w) :
    (v.sshiftRight n).getLsbD i = (v >>> n).getLsbD i := by
  have hi : i < w := Nat.lt_of_le_of_lt (Nat.le_add_left i n) h
  rw [BitVec.getLsbD_sshiftRight, if_pos h, BitVec.getLsbD_ushiftRight, decide_eq_false (Nat.not_le.mpr hi), Bool.not_false,
    Bool.true_and]

/-- One exclusive or with a shift, as the fold does it twice: the kind of shift does not show in those bits. -/
theorem getLsbD_xor_sshiftRight_of_lt {w n i : Nat} (h : n + i < w) (v : BitVec w) :
    (v ^^^ v.sshiftRight n).getLsbD i = (v.getLsbD i ^^ v.getLsbD (n + i)) := by
  rw [BitVec.getLsbD_xor, getLsbD_sshiftRight_of_lt h, BitVec.getLsbD_ushiftRight]

/-- Bit `i` of the fold: the second shift brings down bit `i + 8` of the first fold, which holds bit `i + 24` of the hash. -/
theorem foldHash_getLsbD (h : BitVec 32) {i : Nat} (hi : i < 5) :
    (foldHash h).getLsbD i = (((h.getLsbD i ^^ h.getLsbD (8 + i)) ^^ h.getLsbD (16 + i)) ^^ h.getLsbD (24 + i)) := by
  have hbits : (foldHash h).getLsbD i =
      ((h.getLsbD i ^^ h.getLsbD (16 + i)) ^^ (h.getLsbD (8 + i) ^^ h.getLsbD (16 + (8 + i)))) := by
    simp only [foldHash, BitVec.getLsbD_setWidth, BitVec.getLsbD_xor, BitVec.getLsbD_ushiftRight, hi, decide_true,
      Bool.true_and]
  rw [hbits, show 16 + (8 + i) = 24 + i by omega, ← Bool.xor_assoc,
    Bool.xor_right_comm _ (h.getLsbD (16 + i)) (h.getLsbD (8 + i))]

theorem foldHash_eq_xor_fields (h : BitVec 32) :
    foldHash h = h.extractLsb' 0 5 ^^^ h.extractLsb' 8 5 ^^^ h.extractLsb' 16 5 ^^^ h.extractLsb' 24 5 := by
  apply BitVec.eq_of_getLsbD_eq
  intro i hi
  simp only [foldHash_getLsbD h hi, BitVec.getLsbD_xor, BitVec.getLsbD_extractLsb', hi, decide_true, Bool.true_and,
    Nat.zero_add]

/-- Only bits 4..0 are kept, and the arithmetic shifts bring no copy of the sign down to them. -/
theorem foldSigned_eq_foldHash (h : BitVec 32) : foldSigned h = foldHash h := by
  apply BitVec.eq_of_getLsbD_eq
  intro i hi
  have hfirst : ∀ j < 16, (h ^^^ h.sshiftRight 16).getLsbD j = (h ^^^ h >>> 16).getLsbD j := fun j hj => by
    rw [getLsbD_xor_sshiftRight_of_lt (by omega), BitVec.getLsbD_xor, BitVec.getLsbD_ushiftRight]
  rw [foldSigned, foldHash, BitVec.getLsbD_setWidth, BitVec.getLsbD_setWidth, getLsbD_xor_sshiftRight_of_lt (by omega),
    hfirst i (by omega), hfirst (8 + i) (by omega), BitVec.getLsbD_xor (x := h ^^^ h >>> 16), BitVec.getLsbD_ushiftRight]

/-! ### `CK5` (R106) -/

theorem State.bytesList_eq_map (s : State) (off len : Nat) :
    s.bytesList off len = (List.range len).map fun i => s.bytes (off + i) :=
  List.map_congr_left fun i _ => congrArg s.buf.read (Nat.add_assoc bytesBase off i)

theorem bytesRangeOk_iff {off len : Nat} : bytesRangeOk off len = true ↔ off + len ≤ 20 := decide_eq_true_iff

theorem exec_ck5_of_le {off len : Nat} (h : off + len ≤ 20) (s : State) :
    exec (.ck5 off len) s = .next (s.withResponse ((checksum5 (s.bytesList off len)).setWidth 32)) :=
  (if_pos (bytesRangeOk_iff.mpr h)).trans (respond_setWidth (by decide) _ s)

theorem exec_ck5_of_lt {off len : Nat} (h : 20 < off + len) (s : State) :
    exec (.ck5 off len) s = .next (s.withResponse 0x11000000#32) :=
  if_neg (mt bytesRangeOk_iff.mp (Nat.not_le.mpr h))

end Sys2Proof.Machine
end

section
/-! The statements of 42_checksum.md. -/

namespace Sys2Proof.Proofs.Checksum

open Sys2Proof Sys2Proof.Machine

/-- Settles O21, for a range inside BYTES and for one beyond it. -/
theorem ck5AnswersTheChecksum : Obligations.Ck5AnswersTheChecksum := by
  intro off len s
  refine ⟨fun hoff hlen => ?word, fun hrange => ?checksum, fun hrange => exec_ck5_of_lt hrange s⟩
  case word =>
    rw [← setWidth_field8 hlen]
    exact packBytes_formatAB 0x20 (field8 len) hoff
  case checksum =>
    rw [← s.bytesList_eq_map]
    exact exec_ck5_of_le hrange s

/-- Settles O22, by the bits of the fold: the hash written out there is `fnv1a`. -/
theorem checksumClosedForm : Obligations.ChecksumClosedForm :=
  ⟨fun bytes => foldHash_eq_xor_fields (fnv1a bytes), fun h _ hi => getLsbD_sshiftRight_of_lt (by omega) h,
    foldSigned_eq_foldHash⟩

end Sys2Proof.Proofs.Checksum
end

section
/-! Maps that keep exclusive or, and the sum over the set bits of a byte that they go through (43_gf256.md R113, R117). -/

namespace Sys2Proof.Machine

/-- The map keeps exclusive or, the addition of GF(2) bit by bit. -/
def XorAdditive {m n : Nat} (f : BitVec m → BitVec n) : Prop := ∀ a b, f (a ^^^ b) = f a ^^^ f b

theorem XorAdditive.map_zero {m n : Nat} {f : BitVec m → BitVec n} (hf : XorAdditive f) : f 0 = 0 := by
  have hself : f (0 ^^^ 0) = 0 := (hf 0 0).trans BitVec.xor_self
  rwa [BitVec.xor_self] at hself

theorem XorAdditive.comp {l m n : Nat} {g : BitVec m → BitVec n} {f : BitVec l → BitVec m} (hg : XorAdditive g)
    (hf : XorAdditive f) : XorAdditive fun v => g (f v) := fun a b => (congrArg g (hf a b)).trans (hg _ _)

theorem XorAdditive.iterate {n : Nat} {f : BitVec n → BitVec n} (hf : XorAdditive f) : ∀ k, XorAdditive f^[k]
  | 0 => fun _ _ => rfl
  | k + 1 => (hf.iterate k).comp hf

theorem XorAdditive.foldl {n : Nat} {ι : Type} {f : BitVec n → ι → BitVec n} (hf : ∀ k, XorAdditive fun v => f v k) :
    ∀ ks : List ι, XorAdditive fun v => ks.foldl f v
  | [] => fun _ _ => rfl
  | k :: ks => (XorAdditive.foldl hf ks).comp (hf k)

theorem xorAdditive_setWidth (m n : Nat) : XorAdditive (BitVec.setWidth n : BitVec m → BitVec n) :=
  fun _ _ => BitVec.setWidth_xor

theorem xorAdditive_shiftLeft (n k : Nat) : XorAdditive fun v : BitVec n => v <<< k :=
  fun a b => BitVec.shiftLeft_xor_distrib a b k

/-- A constant that is added where bit `k` is set cancels out where both summands have it. -/
theorem XorAdditive.addIfBit {m n : Nat} {f : BitVec m → BitVec n} (hf : XorAdditive f) (c : BitVec n) (k : Nat) :
    XorAdditive fun v => if v.getLsbD k then f v ^^^ c else f v := by
  intro a b
  simp only [BitVec.getLsbD_xor, hf a b]
  cases a.getLsbD k <;> cases b.getLsbD k
  case false.false => rfl
  case false.true => exact BitVec.xor_assoc _ _ _
  case true.false =>
    show f a ^^^ f b ^^^ c = f a ^^^ c ^^^ f b
    ac_rfl
  case true.true =>
    calc f a ^^^ f b = f a ^^^ f b ^^^ (c ^^^ c) := by rw [BitVec.xor_self]; exact BitVec.xor_zero.symm
      _ = f a ^^^ c ^^^ (f b ^^^ c) := by ac_rfl

/-- The sum of the terms that belong to the set bits of a byte, as the multiplier adds up its shifted factors. -/
def xorBits {n : Nat} (b : Byte) (term : Nat → BitVec n) : BitVec n :=
  [0, 1, 2, 3, 4, 5, 6, 7].foldl (fun r k => if b.getLsbD k then r ^^^ term k else r) 0

/-- A byte is the sum of its set bits. -/
theorem xorBits_shiftLeft (b : Byte) : xorBits b (fun k => 1 <<< k) = b := by
  revert b; decide

theorem xorBits_congr {n : Nat} {b : Byte} {term term' : Nat → BitVec n} (h : ∀ k < 8, term k = term' k) :
    xorBits b term = xorBits b term' := by
  have hindex : ∀ k ∈ [0, 1, 2, 3, 4, 5, 6, 7], k < 8 := by decide
  exact List.foldl_ext _ _ 0 fun r k hk => by rw [h k (hindex k hk)]

theorem XorAdditive.map_xorBits {m n : Nat} {f : BitVec m → BitVec n} (hf : XorAdditive f) (b : Byte)
    (term : Nat → BitVec m) : f (xorBits b term) = xorBits b fun k => f (term k) := by
  unfold xorBits
  rw [← hf.map_zero]
  exact (List.foldl_hom f fun r k => by rw [apply_ite f, hf r]).symm

/-- A map that keeps exclusive or is known by its values at the eight powers of two. -/
theorem XorAdditive.ext_byte {n : Nat} {f g : Byte → BitVec n} (hf : XorAdditive f) (hg : XorAdditive g)
    (h : ∀ k < 8, f (1 <<< k) = g (1 <<< k)) (b : Byte) : f b = g b := by
  calc f b = f (xorBits b fun k => 1 <<< k) := by rw [xorBits_shiftLeft]
    _ = xorBits b fun k => f (1 <<< k) := hf.map_xorBits b _
    _ = xorBits b fun k => g (1 <<< k) := xorBits_congr h
    _ = g (xorBits b fun k => 1 <<< k) := (hg.map_xorBits b _).symm
    _ = g b := by rw [xorBits_shiftLeft]

end Sys2Proof.Machine
end

section
/-! The tables EXP and LOG as the powers of the generator and their exponents (43_gf256.md R110 to R112). -/

namespace Sys2Proof.Machine

theorem expTable_succ : ∀ i < 254, expTable (i + 1) = xtime (expTable i) := by decide +kernel

theorem xtime_expTable_last : xtime (expTable 254) = 1 := by decide

theorem logTable_expTable : ∀ i < 255, logTable (expTable i) = some i := by decide +kernel

/-- Every entry of LOG but the one of 0 is an index of EXP, and EXP leads back from it. -/
theorem logTable_any : ∀ v : Byte, v ≠ 0 → (logTable v).any (fun i => decide (i < 255 ∧ expTable i = v)) = true := by
  decide +kernel

theorem logTable_of_ne_zero {v : Byte} (h : v ≠ 0) : ∃ i < 255, logTable v = some i ∧ expTable i = v := by
  obtain ⟨i, hlog, hi⟩ := (Option.any_eq_true _ _).mp (logTable_any v h)
  obtain ⟨hlt, hexp⟩ := of_decide_eq_true hi
  exact ⟨i, hlt, hlog, hexp⟩

/-- Multiplying by the generator moves on to the next power, from the last one back to 1. -/
theorem gfPowAlpha_succ (n : Nat) : gfPowAlpha (n + 1) = xtime (gfPowAlpha n) := by
  by_cases hlast : n % 255 = 254
  · rw [gfPowAlpha, gfPowAlpha, hlast, show (n + 1) % 255 = 0 by omega, xtime_expTable_last]
    rfl
  · rw [gfPowAlpha, gfPowAlpha, show (n + 1) % 255 = n % 255 + 1 by omega, expTable_succ _ (by omega)]

theorem gfPowAlpha_eq_iterate : ∀ n, gfPowAlpha n = xtime^[n] 1
  | 0 => rfl
  | n + 1 => by rw [gfPowAlpha_succ, gfPowAlpha_eq_iterate n, Function.iterate_succ_apply']

theorem expTable_eq_iterate {i : Nat} (h : i < 255) : expTable i = xtime^[i] 1 := by
  rw [← gfPowAlpha_eq_iterate, gfPowAlpha, Nat.mod_eq_of_lt h]

theorem logTable_gfPowAlpha (n : Nat) : logTable (gfPowAlpha n) = some (n % 255) :=
  logTable_expTable _ (Nat.mod_lt n (by decide))

/-- The 255 powers are exactly the non-zero bytes. -/
theorem eq_zero_or_gfPowAlpha (v : Byte) : v = 0 ∨ ∃ n < 255, gfPowAlpha n = v := by
  by_cases hv : v = 0
  · exact .inl hv
  · obtain ⟨i, hi, -, hexp⟩ := logTable_of_ne_zero hv
    exact .inr ⟨i, hi, by rw [gfPowAlpha, Nat.mod_eq_of_lt hi, hexp]⟩

end Sys2Proof.Machine
end

section
/-! The product of the tables (43_gf256.md R113, R117): powers multiply by adding exponents, so multiplying by a power of the
generator is multiplying by the generator that often, which keeps exclusive or. -/

namespace Sys2Proof.Machine

theorem gfMul_of_some {a b : Byte} {i j : Nat} (ha : logTable a = some i) (hb : logTable b = some j) :
    gfMul a b = gfPowAlpha (i + j) := by
  simp only [gfMul, ha, hb, gfPowAlpha]

@[simp] theorem zero_gfMul (b : Byte) : gfMul 0 b = 0 := rfl

@[simp] theorem gfMul_zero (a : Byte) : gfMul a 0 = 0 := by
  unfold gfMul
  cases logTable a <;> rfl

theorem gfMul_gfPowAlpha (i j : Nat) : gfMul (gfPowAlpha i) (gfPowAlpha j) = gfPowAlpha (i + j) := by
  rw [gfMul_of_some (logTable_gfPowAlpha i) (logTable_gfPowAlpha j), gfPowAlpha, gfPowAlpha, ← Nat.add_mod]

theorem gfMul_comm (a b : Byte) : gfMul a b = gfMul b a := by
  obtain rfl | ⟨i, -, rfl⟩ := eq_zero_or_gfPowAlpha a
  · simp only [zero_gfMul, gfMul_zero]
  obtain rfl | ⟨j, -, rfl⟩ := eq_zero_or_gfPowAlpha b
  · simp only [zero_gfMul, gfMul_zero]
  · simp only [gfMul_gfPowAlpha, Nat.add_comm]

theorem gfMul_one (a : Byte) : gfMul a 1 = a := by
  obtain rfl | ⟨n, -, rfl⟩ := eq_zero_or_gfPowAlpha a
  · exact zero_gfMul 1
  · exact gfMul_gfPowAlpha n 0

theorem gfMul_assoc (a b c : Byte) : gfMul (gfMul a b) c = gfMul a (gfMul b c) := by
  obtain rfl | ⟨i, -, rfl⟩ := eq_zero_or_gfPowAlpha a
  · simp only [zero_gfMul]
  obtain rfl | ⟨j, -, rfl⟩ := eq_zero_or_gfPowAlpha b
  · simp only [zero_gfMul, gfMul_zero]
  obtain rfl | ⟨k, -, rfl⟩ := eq_zero_or_gfPowAlpha c
  · simp only [gfMul_zero]
  · simp only [gfMul_gfPowAlpha, Nat.add_assoc]

/-- The exponent of the inverse is the one that completes 255 (R117). -/
theorem gfMul_gfPowAlpha_inverse {i : Nat} (h : i < 255) : gfMul (gfPowAlpha i) (gfPowAlpha (255 - i)) = 1 := by
  rw [gfMul_gfPowAlpha, Nat.add_sub_cancel' h.le]
  rfl

/-! ### Distributivity -/

theorem xorAdditive_xtime : XorAdditive xtime := (xorAdditive_shiftLeft 8 1).addIfBit 0x1D 7

theorem gfPowAlpha_gfMul (n : Nat) (b : Byte) : gfMul (gfPowAlpha n) b = xtime^[n] b := by
  obtain rfl | ⟨k, -, rfl⟩ := eq_zero_or_gfPowAlpha b
  · rw [gfMul_zero, (xorAdditive_xtime.iterate n).map_zero]
  · rw [gfMul_gfPowAlpha, gfPowAlpha_eq_iterate, gfPowAlpha_eq_iterate, Function.iterate_add_apply]

theorem xorAdditive_gfMul (a : Byte) : XorAdditive (gfMul a) := by
  intro b c
  obtain rfl | ⟨n, -, rfl⟩ := eq_zero_or_gfPowAlpha a
  · simp only [zero_gfMul, BitVec.xor_self]
    rfl
  · simp only [gfPowAlpha_gfMul, xorAdditive_xtime.iterate n b c]

/-! ### The shift-and-xor product -/

/-- The reduction of a 15-bit product to a byte, from bit 14 down to bit 8. -/
def reduceProduct (r : BitVec 15) : Byte := ([14, 13, 12, 11, 10, 9, 8].foldl reduceStep r).setWidth 8

theorem clmulMod_eq (a b : Byte) : clmulMod a b = reduceProduct (xorBits b fun k => a.setWidth 15 <<< k) := rfl

theorem xorAdditive_reduceStep (k : Nat) : XorAdditive fun r => reduceStep r k :=
  XorAdditive.addIfBit (f := id) (fun _ _ => rfl) (0x11D#15 <<< (k - 8)) k

theorem xorAdditive_reduceProduct : XorAdditive reduceProduct :=
  (xorAdditive_setWidth 15 8).comp (.foldl xorAdditive_reduceStep _)

theorem reduceProduct_shiftLeft_one : ∀ k < 8, ∀ j < 8,
    reduceProduct ((1#8 <<< j).setWidth 15 <<< k) = gfMul (1 <<< k) (1 <<< j) := by decide

/-- One shifted factor, reduced, is the product of the tables with a power of two. -/
theorem reduceProduct_shiftLeft (a : Byte) {k : Nat} (hk : k < 8) : reduceProduct (a.setWidth 15 <<< k) = gfMul a (1 <<< k) := by
  rw [gfMul_comm]
  exact XorAdditive.ext_byte
    (xorAdditive_reduceProduct.comp ((xorAdditive_shiftLeft 15 k).comp (xorAdditive_setWidth 8 15)))
    (xorAdditive_gfMul (1 <<< k)) (reduceProduct_shiftLeft_one k hk) a

theorem clmulMod_eq_gfMul (a b : Byte) : clmulMod a b = gfMul a b := by
  calc clmulMod a b = reduceProduct (xorBits b fun k => a.setWidth 15 <<< k) := clmulMod_eq a b
    _ = xorBits b fun k => reduceProduct (a.setWidth 15 <<< k) := xorAdditive_reduceProduct.map_xorBits b _
    _ = xorBits b fun k => gfMul a (1 <<< k) := xorBits_congr fun _ hk => reduceProduct_shiftLeft a hk
    _ = gfMul a (xorBits b fun k => 1 <<< k) := ((xorAdditive_gfMul a).map_xorBits b _).symm
    _ = gfMul a b := by rw [xorBits_shiftLeft]

/-! ### The commands (R114 to R116) -/

theorem exec_gfExp (i : Nat) (s : State) : exec (.gfExp i) s = .next (s.withResponse ((gfPowAlpha i).setWidth 32)) :=
  respond_setWidth (by decide) (gfPowAlpha i) s

theorem exec_gfLog_of_some {v : Byte} {i : Nat} (h : logTable v = some i) (hi : i < 255) (s : State) :
    exec (.gfLog v) s = .next (s.withResponse (BitVec.ofNat 32 i)) := by
  simp only [exec, execGfLog, h, respond_eq, responseWord_ok_value (hi.trans (by decide) : i < 2 ^ 24)]

theorem exec_gfLog_zero (s : State) : exec (.gfLog 0) s = .next (s.withResponse 0x02000000#32) := rfl

theorem exec_gfMul (x y : Byte) (s : State) : exec (.gfMul x y) s = .next (s.withResponse ((gfMul x y).setWidth 32)) :=
  respond_setWidth (by decide) (gfMul x y) s

end Sys2Proof.Machine
end

section
/-! The statements of 43_gf256.md. -/

namespace Sys2Proof.Proofs.Gf256

open Sys2Proof Sys2Proof.Machine

/-- Settles O23: equal entries of EXP have one LOG, and every non-zero byte has one. -/
theorem expAndLogTables : Obligations.ExpAndLogTables := by
  refine ⟨fun i hi => expTable_eq_iterate hi, fun i hi j hj hij => ?different, xtime_expTable_last, logTable_expTable, rfl,
    fun v hv => logTable_of_ne_zero hv⟩
  case different =>
    have hlogs : some i = some j := by rw [← logTable_expTable i hi, hij, logTable_expTable j hj]
    exact Option.some.inj hlogs

/-- Settles O24: EXP at the reduced index is the iterated doubling. -/
theorem gfExpAnswersThePower : Obligations.GfExpAnswersThePower := by
  intro i s
  refine ⟨packBytes_formatA 0x30, ?_⟩
  rw [exec_gfExp, gfPowAlpha, expTable_eq_iterate (Nat.mod_lt i (by decide))]

/-- Settles O25, for a non-zero element by its entry of LOG, and for 0, which has none. -/
theorem gfLogAnswersTheExponent : Obligations.GfLogAnswersTheExponent := by
  intro v s
  refine ⟨BitVec.or_zero.trans BitVec.or_zero, fun hv => ?exponent, fun hv => hv ▸ exec_gfLog_zero s⟩
  case exponent =>
    obtain ⟨i, hi, hlog, hexp⟩ := logTable_of_ne_zero hv
    exact ⟨i, hi, (expTable_eq_iterate hi).symm.trans hexp, exec_gfLog_of_some hlog hi s⟩

/-- Settles O26: both products keep exclusive or in each factor, and agree on the powers of two. -/
theorem gfMulAnswersTheFieldProduct : Obligations.GfMulAnswersTheFieldProduct := by
  intro x y s
  refine ⟨BitVec.or_zero, ?_⟩
  rw [clmulMod_eq_gfMul]
  exact exec_gfMul x y s

/-- Settles O27: the laws of the product are those of the exponents; it distributes because it repeats the doubling. -/
theorem gf256IsAField : Obligations.Gf256IsAField := by
  refine ⟨fun a b c => ⟨BitVec.xor_assoc a b c, BitVec.xor_comm a b, BitVec.xor_zero, BitVec.xor_self⟩, gfMul_assoc,
    fun a b => ⟨gfMul_comm a b, gfMul_one a⟩, xorAdditive_gfMul, fun v hv => ?inverse⟩
  case inverse =>
    obtain ⟨i, hi, hlog, hexp⟩ := logTable_of_ne_zero hv
    refine ⟨i, hlog, ?_⟩
    calc gfMul v (expTable ((255 - i) % 255)) = gfMul (gfPowAlpha i) (gfPowAlpha (255 - i)) := by
          rw [gfPowAlpha, Nat.mod_eq_of_lt hi, hexp, gfPowAlpha]
      _ = 1 := gfMul_gfPowAlpha_inverse hi

end Sys2Proof.Proofs.Gf256
end

section
/-! Polynomials over GF(256) as lists of coefficients, highest power first, and the syndrome as their value at a power of the
generator (44_reed_solomon.md R129). -/

namespace Sys2Proof.Machine

/-! ### Right distributivity -/

theorem xorAdditive_gfMul_right (c : Byte) : XorAdditive fun a => gfMul a c := by
  intro a b
  simp only [gfMul_comm _ c, xorAdditive_gfMul c a b]

theorem xor_gfMul (a b c : Byte) : gfMul (a ^^^ b) c = gfMul a c ^^^ gfMul b c := xorAdditive_gfMul_right c a b

theorem one_gfMul (a : Byte) : gfMul 1 a = a := (gfMul_comm 1 a).trans (gfMul_one a)

/-- A map that keeps exclusive or keeps a sum of any number of terms. -/
theorem XorAdditive.map_foldl_xor {m n : Nat} {f : BitVec m → BitVec n} (hf : XorAdditive f) {ι : Type} (ks : List ι)
    (term : ι → BitVec m) :
    f (ks.foldl (fun acc k => acc ^^^ term k) 0) = ks.foldl (fun acc k => acc ^^^ f (term k)) 0 := by
  rw [← hf.map_zero]
  exact (List.foldl_hom f fun acc k => (hf acc (term k)).symm).symm

@[simp] theorem gfPowAlpha_zero : gfPowAlpha 0 = 1 := rfl

/-! ### Sum and multiple of polynomials -/

/-- Two polynomials of equal length lose their constant terms together. -/
theorem equalLength_induction {motive : (p q : List Byte) → p.length = q.length → Prop} (nil : motive [] [] rfl)
    (append : ∀ (p : List Byte) (a : Byte) (q : List Byte) (b : Byte) (hlen : p.length = q.length), motive p q hlen →
      motive (p ++ [a]) (q ++ [b]) (by simp [hlen])) :
    ∀ (p q : List Byte) (hlen : p.length = q.length), motive p q hlen := by
  intro p
  induction p using List.reverseRecOn with
  | nil =>
    intro q hlen
    obtain rfl := List.length_eq_zero_iff.mp hlen.symm
    exact nil
  | append_singleton p a ih =>
    intro q hlen
    obtain rfl | ⟨q, b, rfl⟩ := q.eq_nil_or_concat'
    · simp at hlen
    have hinit : p.length = q.length := by simpa using hlen
    exact append p a q b hinit (ih q hinit)

/-- The sum of two polynomials of equal length. -/
abbrev polyAdd (p q : List Byte) : List Byte := List.zipWith (· ^^^ ·) p q

/-- The polynomial `p` times the constant `f`. -/
abbrev polyScale (f : Byte) (p : List Byte) : List Byte := p.map (gfMul f)

theorem polyAdd_append_singleton {p q : List Byte} (hlen : p.length = q.length) (a b : Byte) :
    polyAdd (p ++ [a]) (q ++ [b]) = polyAdd p q ++ [a ^^^ b] := by
  rw [polyAdd, List.zipWith_append hlen]
  rfl

theorem polyAdd_polyAdd_comm (p q r s : List Byte) :
    polyAdd (polyAdd p q) (polyAdd r s) = polyAdd (polyAdd p r) (polyAdd q s) := by
  refine List.ext_getElem ?_ fun k _ _ => ?_
  · simp only [List.length_zipWith]
    omega
  · simp only [List.getElem_zipWith]
    ac_rfl

theorem polyScale_xor (f g : Byte) (p : List Byte) : polyScale (f ^^^ g) p = polyAdd (polyScale f p) (polyScale g p) := by
  rw [polyAdd, List.zipWith_map, List.zipWith_self]
  exact List.map_congr_left fun a _ => xor_gfMul f g a

/-! ### The value at a power of the generator (R129) -/

theorem rsSyndrome_append_singleton (c : List Byte) (v : Byte) (i : Nat) :
    rsSyndrome (c ++ [v]) i = gfMul (rsSyndrome c i) (expTable i) ^^^ v := List.foldl_append

theorem rsSyndrome_replicate_zero (n i : Nat) : rsSyndrome (List.replicate n 0) i = 0 := by
  induction n with
  | zero => rfl
  | succ n ih =>
    rw [List.replicate_succ', rsSyndrome_append_singleton, ih, zero_gfMul]
    exact BitVec.xor_self

theorem rsSyndrome_polyAdd {p q : List Byte} (hlen : p.length = q.length) (i : Nat) :
    rsSyndrome (polyAdd p q) i = rsSyndrome p i ^^^ rsSyndrome q i := by
  induction p, q, hlen using equalLength_induction with
  | nil => exact BitVec.xor_self.symm
  | append p a q b hlen ih =>
    rw [polyAdd_append_singleton hlen, rsSyndrome_append_singleton, rsSyndrome_append_singleton, rsSyndrome_append_singleton, ih,
      xor_gfMul]
    ac_rfl

theorem rsSyndrome_polyScale (f : Byte) (p : List Byte) (i : Nat) :
    rsSyndrome (polyScale f p) i = gfMul f (rsSyndrome p i) := by
  induction p using List.reverseRecOn with
  | nil => exact (gfMul_zero f).symm
  | append_singleton p a ih =>
    rw [polyScale, List.map_append, List.map_singleton, rsSyndrome_append_singleton, rsSyndrome_append_singleton, ih,
      xorAdditive_gfMul f, gfMul_assoc]

section
variable {i : Nat} (hi : i < 255)
include hi

theorem expTable_eq_gfPowAlpha : expTable i = gfPowAlpha i := by rw [gfPowAlpha, Nat.mod_eq_of_lt hi]

/-- Multiplying by `alpha^i` raises the exponent `i·n`. -/
theorem gfMul_gfPowAlpha_mul_expTable (a : Byte) (n : Nat) :
    gfMul (gfMul a (gfPowAlpha (i * n))) (expTable i) = gfMul a (gfPowAlpha (i * (n + 1))) := by
  rw [gfMul_assoc, expTable_eq_gfPowAlpha hi, gfMul_gfPowAlpha, Nat.mul_succ]

theorem rsSyndrome_append (c r : List Byte) :
    rsSyndrome (c ++ r) i = gfMul (rsSyndrome c i) (gfPowAlpha (i * r.length)) ^^^ rsSyndrome r i := by
  induction r using List.reverseRecOn with
  | nil =>
    rw [List.append_nil, List.length_nil, Nat.mul_zero, gfPowAlpha_zero, gfMul_one]
    exact BitVec.xor_zero.symm
  | append_singleton r v ih =>
    rw [← List.append_assoc, rsSyndrome_append_singleton, ih, rsSyndrome_append_singleton, xor_gfMul,
      gfMul_gfPowAlpha_mul_expTable hi, List.length_append, List.length_singleton, BitVec.xor_assoc]

theorem rsSyndrome_cons (v : Byte) (c : List Byte) :
    rsSyndrome (v :: c) i = gfMul v (gfPowAlpha (i * c.length)) ^^^ rsSyndrome c i := by
  have hsingle : rsSyndrome [v] i = v := BitVec.zero_xor
  rw [← List.singleton_append, rsSyndrome_append hi, hsingle]

/-- Horner's rule computes the defining sum. -/
theorem rsSyndrome_map_range (c : Nat → Byte) (n : Nat) :
    rsSyndrome ((List.range n).map c) i =
      (List.range n).foldl (fun acc j => acc ^^^ gfMul (c j) (gfPowAlpha (i * (n - 1 - j)))) 0 := by
  induction n with
  | zero => rfl
  | succ n ih =>
    have hraise : ∀ acc, ∀ j ∈ List.range n, acc ^^^ gfMul (gfMul (c j) (gfPowAlpha (i * (n - 1 - j)))) (expTable i) =
        acc ^^^ gfMul (c j) (gfPowAlpha (i * (n - j))) := fun acc j hj => by
      rw [gfMul_gfPowAlpha_mul_expTable hi, show n - 1 - j + 1 = n - j by have := List.mem_range.mp hj; omega]
    rw [List.range_succ, List.map_append, List.map_singleton, rsSyndrome_append_singleton, ih, List.foldl_append,
      (xorAdditive_gfMul_right (expTable i)).map_foldl_xor, List.foldl_ext _ _ 0 hraise]
    simp only [List.foldl_cons, List.foldl_nil, Nat.add_sub_cancel, Nat.sub_self, Nat.mul_zero, gfPowAlpha_zero, gfMul_one]

end

end Sys2Proof.Machine
end

section
/-! The division by the generator (44_reed_solomon.md R126 to R128): it is linear, and at each root of the generator the
remainder has the value of the data moved up by seven powers. -/

namespace Sys2Proof.Machine

/-! ### One step of the division -/

theorem rsStep_cons (h : Byte) (t : List Byte) (d : Byte) :
    rsStep (h :: t) d = polyAdd (t ++ [0]) (polyScale (d ^^^ h) genTail) := by
  simp only [rsStep, polyAdd, polyScale, List.zipWith_map_right, List.headD_cons, List.tail_cons, gfMul_comm]

theorem genTail_length : genTail.length = 7 := rfl

theorem rsStep_length {r : List Byte} (hr : r.length = 7) (d : Byte) : (rsStep r d).length = 7 := by
  obtain ⟨h, t, rfl⟩ := List.exists_cons_of_length_eq_add_one hr
  rw [rsStep_cons, List.length_zipWith, List.length_append, List.length_map, genTail_length]
  exact congrArg (min · 7) hr

/-- The feedback of a sum is the sum of the feedbacks. -/
theorem rsStep_polyAdd {p q : List Byte} (hp : p.length = 7) (hq : q.length = 7) (d e : Byte) :
    rsStep (polyAdd p q) (d ^^^ e) = polyAdd (rsStep p d) (rsStep q e) := by
  obtain ⟨a, p, rfl⟩ := List.exists_cons_of_length_eq_add_one hp
  obtain ⟨b, q, rfl⟩ := List.exists_cons_of_length_eq_add_one hq
  have hfeedback : d ^^^ e ^^^ (a ^^^ b) = d ^^^ a ^^^ (e ^^^ b) := by ac_rfl
  have hshift : polyAdd p q ++ [0] = polyAdd (p ++ [0]) (q ++ [0]) :=
    (polyAdd_append_singleton (Nat.succ.inj (hp.trans hq.symm)) 0 0).symm
  rw [polyAdd, List.zipWith_cons_cons, rsStep_cons, rsStep_cons, rsStep_cons, hfeedback, polyScale_xor, hshift,
    polyAdd_polyAdd_comm]

/-- The first seven powers of alpha are roots of the generator (R126). -/
theorem rsSyndrome_one_cons_genTail : ∀ i ≤ 6, rsSyndrome (1 :: genTail) i = 0 := by decide

/-- At a root of the generator the terms below x^7 make up for x^7. -/
theorem rsSyndrome_genTail {i : Nat} (hi : i ≤ 6) : rsSyndrome genTail i = gfPowAlpha (i * 7) := by
  have hroot := rsSyndrome_one_cons_genTail i hi
  rw [rsSyndrome_cons (by omega), one_gfMul, genTail_length] at hroot
  exact (BitVec.xor_eq_zero_iff.mp hroot).symm

/-- At a root of the generator a step moves the remainder up by one power and adds the new data at x^7: the feedback takes
away what leaves the remainder at the top. -/
theorem rsSyndrome_rsStep {i : Nat} (hi : i ≤ 6) {r : List Byte} (hr : r.length = 7) (d : Byte) :
    rsSyndrome (rsStep r d) i = gfMul (rsSyndrome r i) (expTable i) ^^^ gfMul d (gfPowAlpha (i * 7)) := by
  have hlt : i < 255 := by omega
  obtain ⟨h, t, rfl⟩ := List.exists_cons_of_length_eq_add_one hr
  have ht : t.length = 6 := Nat.succ.inj hr
  have hlen : (t ++ [0]).length = (polyScale (d ^^^ h) genTail).length := by
    rw [List.length_map, genTail_length, List.length_append, ht, List.length_singleton]
  have hshift : rsSyndrome (t ++ [0]) i = gfMul (rsSyndrome t i) (expTable i) :=
    (rsSyndrome_append_singleton t 0 i).trans BitVec.xor_zero
  rw [rsStep_cons, rsSyndrome_polyAdd hlen, hshift, rsSyndrome_polyScale, rsSyndrome_genTail hi, rsSyndrome_cons hlt,
    ht, xor_gfMul, xor_gfMul, gfMul_gfPowAlpha_mul_expTable hlt]
  ac_rfl

/-! ### The remainder (R127, R128) -/

theorem rsRemainder_append_singleton (d : List Byte) (v : Byte) : rsRemainder (d ++ [v]) = rsStep (rsRemainder d) v :=
  List.foldl_append

@[simp] theorem rsRemainder_length (d : List Byte) : (rsRemainder d).length = 7 := by
  induction d using List.reverseRecOn with
  | nil => rfl
  | append_singleton d v ih =>
    rw [rsRemainder_append_singleton]
    exact rsStep_length ih v

theorem rsRemainder_polyAdd {d e : List Byte} (hlen : d.length = e.length) :
    rsRemainder (polyAdd d e) = polyAdd (rsRemainder d) (rsRemainder e) := by
  induction d, e, hlen using equalLength_induction with
  | nil => rfl
  | append d v e w hlen ih =>
    rw [polyAdd_append_singleton hlen, rsRemainder_append_singleton, rsRemainder_append_singleton,
      rsRemainder_append_singleton, ih, rsStep_polyAdd (rsRemainder_length d) (rsRemainder_length e)]

/-- The remainder is the data moved up by seven powers, as seen at each root of the generator. -/
theorem rsSyndrome_rsRemainder {i : Nat} (hi : i ≤ 6) (d : List Byte) :
    rsSyndrome (rsRemainder d) i = gfMul (rsSyndrome d i) (gfPowAlpha (i * 7)) := by
  induction d using List.reverseRecOn with
  | nil =>
    have hzero : rsSyndrome (rsRemainder []) i = 0 := rsSyndrome_replicate_zero _ i
    rw [hzero]
    exact (zero_gfMul _).symm
  | append_singleton d v ih =>
    have hswap : gfMul (gfMul (rsSyndrome d i) (gfPowAlpha (i * 7))) (expTable i) =
        gfMul (gfMul (rsSyndrome d i) (expTable i)) (gfPowAlpha (i * 7)) := by
      rw [gfMul_assoc, gfMul_comm (gfPowAlpha (i * 7)), gfMul_assoc]
    rw [rsRemainder_append_singleton, rsSyndrome_rsStep hi (rsRemainder_length d), ih, hswap, rsSyndrome_append_singleton,
      xor_gfMul]

/-- Data followed by their remainder are a multiple of the generator (R128). -/
theorem rsSyndrome_append_rsRemainder {i : Nat} (hi : i ≤ 6) (d : List Byte) :
    rsSyndrome (d ++ rsRemainder d) i = 0 := by
  rw [rsSyndrome_append (by omega), rsRemainder_length, rsSyndrome_rsRemainder hi]
  exact BitVec.xor_self

end Sys2Proof.Machine
end

section
/-! What the three Reed-Solomon commands do in each of their cases (44_reed_solomon.md R130 to R132), and the codewords they
leave. -/

namespace Sys2Proof.Machine

/-! ### Ranges of CW -/

theorem Memory.readRange_add (m : Memory) (base k n : Nat) :
    m.readRange base (k + n) = m.readRange base k ++ m.readRange (base + k) n := by
  simp only [Memory.readRange, List.range_add, List.map_append, List.map_map, Function.comp_def, Nat.add_assoc]

theorem mapped_check_add {j : Nat} (h : j < 7) : mapped (cwBase + 19 + j) = true :=
  (mapped_iff _).mpr (.inl (by rw [cwBase]; omega))

theorem State.cwList_eq_map (s : State) (n : Nat) : s.cwList n = (List.range n).map s.cw := rfl

/-! ### `RS.GEN` (R130) -/

theorem genTable_eq_genProduct : ∀ j < 8, genTable j = genProduct.getD (7 - j) 0 := by decide

theorem exec_rsGen_of_le {j : Nat} (h : j ≤ 7) (s : State) :
    exec (.rsGen j) s = .next (s.withResponse ((genTable j).setWidth 32)) :=
  (if_pos h).trans (respond_setWidth (by decide) _ s)

theorem exec_rsGen_of_lt {j : Nat} (h : 7 < j) (s : State) : exec (.rsGen j) s = .next (s.withResponse 0x11000000#32) :=
  if_neg (Nat.not_le.mpr h)

/-! ### `RS.ENC` (R131) -/

/-- `s` after `RS.ENC`. -/
def State.rsEncoded (s : State) : State :=
  (s.withBuf (s.buf.writeRange (cwBase + 19) (rsRemainder (s.cwList 19)))).withResponse 0x00000000#32

theorem exec_rsEnc (s : State) : exec .rsEnc s = .next s.rsEncoded := rfl

theorem State.rsEncoded_buf (s : State) :
    s.rsEncoded.buf = s.buf.writeRange (cwBase + 19) (rsRemainder (s.cwList 19)) := by
  rw [rsEncoded, withResponse_buf, withBuf_buf]

theorem State.rsEncoded_read_of_outside (s : State) {a : Nat} (h : ¬ (0x13 ≤ a ∧ a ≤ 0x19)) :
    s.rsEncoded.buf.read a = s.buf.read a := by
  rw [rsEncoded_buf, Memory.read_writeRange_of_outside]
  rw [rsRemainder_length, cwBase]
  omega

theorem State.rsEncoded_cw_of_lt (s : State) {j : Nat} (h : j < 19) : s.rsEncoded.cw j = s.cw j :=
  s.rsEncoded_read_of_outside (by rw [cwBase]; omega)

theorem State.rsEncoded_cw_check (s : State) {j : Nat} (h : j < 7) :
    s.rsEncoded.cw (19 + j) = (rsRemainder (s.cwList 19)).getD j 0 := by
  rw [State.cw, rsEncoded_buf, ← Nat.add_assoc, Memory.read_writeRange_of_lt]
  · rwa [rsRemainder_length]
  · exact mapped_check_add h

/-- CW holds the data and their remainder afterwards. -/
theorem State.cwList_rsEncoded (s : State) : s.rsEncoded.cwList 26 = s.cwList 19 ++ rsRemainder (s.cwList 19) := by
  have hdata : s.rsEncoded.buf.readRange cwBase 19 = s.cwList 19 := by
    rw [rsEncoded_buf, Memory.readRange_writeRange_of_disjoint _ (.inl le_rfl), State.cwList]
  have hcheck : s.rsEncoded.buf.readRange (cwBase + 19) 7 = rsRemainder (s.cwList 19) := by
    have hself := Memory.readRange_writeRange_self s.buf (base := cwBase + 19) (bs := rsRemainder (s.cwList 19))
    rw [rsRemainder_length] at hself
    rw [rsEncoded_buf, hself fun _ hj => mapped_check_add hj]
  rw [State.cwList, Memory.readRange_add _ _ 19 7, hdata, hcheck]

/-! ### `RS.SYN` (R132) -/

theorem exec_rsSyn_of_le {i : Nat} (h : i ≤ 6) (s : State) :
    exec (.rsSyn i) s = .next (s.withResponse ((rsSyndrome (s.cwList 26) i).setWidth 32)) :=
  (if_pos h).trans (respond_setWidth (by decide) _ s)

theorem exec_rsSyn_of_lt {i : Nat} (h : 6 < i) (s : State) : exec (.rsSyn i) s = .next (s.withResponse 0x11000000#32) :=
  if_neg (Nat.not_le.mpr h)

end Sys2Proof.Machine
end

section
/-! The statements of 44_reed_solomon.md. -/

namespace Sys2Proof.Proofs.ReedSolomon

open Sys2Proof Sys2Proof.Machine

/-- Settles O30: the bytes stored are read back where the remainder has a byte, and no other address was written. -/
theorem rsEncStoresTheRemainder : Obligations.RsEncStoresTheRemainder :=
  ⟨by decide, fun s => ⟨s.rsEncoded, exec_rsEnc s, s.onlyBufChanged_stored _ _, fun _ hj => s.rsEncoded_cw_check hj,
    fun _ ha => s.rsEncoded_read_of_outside ha⟩⟩

/-- Settles O31: the command's Horner scheme is the defining sum. -/
theorem rsSynAnswersTheSyndrome : Obligations.RsSynAnswersTheSyndrome := by
  intro i s
  refine ⟨packBytes_formatA 0x42, fun hi => ?syndrome, fun hi => exec_rsSyn_of_lt hi s⟩
  case syndrome =>
    rw [exec_rsSyn_of_le hi, State.cwList_eq_map, rsSyndrome_map_range (by omega)]

/-- Settles O32: CW holds the data and their remainder, which cancel at every root of the generator. -/
theorem encodedCodewordHasZeroSyndromes : Obligations.EncodedCodewordHasZeroSyndromes := by
  intro s
  refine ⟨s.rsEncoded, exec_rsEnc s, fun _ hj => s.rsEncoded_cw_of_lt hj, fun _ hj => s.rsEncoded_cw_check hj,
    fun i hi => ?syndrome⟩
  case syndrome =>
    rw [exec_rsSyn_of_le hi, State.cwList_rsEncoded, rsSyndrome_append_rsRemainder hi]
    rfl

/-- Settles O33, by the linearity of each step of the division. -/
theorem remainderIsLinear : Obligations.RemainderIsLinear := fun _ _ => rsRemainder_polyAdd

/-- Settles O28: every clause evaluates closed tables. -/
theorem generatorIsTheProductOfItsRoots : Obligations.GeneratorIsTheProductOfItsRoots :=
  ⟨by decide, rfl, genTable_eq_genProduct, rfl, by decide⟩

/-- Settles O29, for a coefficient of the generator and beyond its degree. -/
theorem rsGenAnswersTheCoefficient : Obligations.RsGenAnswersTheCoefficient := by
  intro j s
  refine ⟨packBytes_formatA 0x40, fun hj => ?coefficient, fun hj => exec_rsGen_of_lt hj s⟩
  case coefficient =>
    rw [← genTable_eq_genProduct j (Nat.lt_succ_of_le hj)]
    exact exec_rsGen_of_le hj s

end Sys2Proof.Proofs.ReedSolomon
end

section
/-! The format words (45_bch_format.md R141, R142). The division by 0x537 takes away multiples of it, so a word without the mask
is a multiple; and it keeps exclusive or, so the bits in which two words differ make up a codeword themselves. -/

namespace Sys2Proof.Machine

open Claims (wordDistance)

/-! ### The multiples of the generator -/

/-- Adding up the terms of a word's set bits keeps exclusive or of the words. -/
theorem xorAdditive_foldl_addIfBit {m n : Nat} (term : Nat → BitVec n) (ks : List Nat) :
    XorAdditive fun q : BitVec m => ks.foldl (fun r k => if q.getLsbD k then r ^^^ term k else r) 0 := by
  induction ks using List.reverseRecOn with
  | nil => exact fun _ _ => BitVec.xor_self.symm
  | append_singleton ks k ih =>
    simp only [List.foldl_append, List.foldl_cons, List.foldl_nil]
    exact ih.addIfBit (term k) k

/-- The product of `q` and the generator over GF(2), added up from the generator's shifts. -/
def bchProduct (q : BitVec 5) : FormatWord :=
  [0, 1, 2, 3, 4].foldl (fun r k => if q.getLsbD k then r ^^^ (bchGen <<< k) else r) 0

theorem xorAdditive_bchProduct : XorAdditive bchProduct := xorAdditive_foldl_addIfBit (fun k => bchGen <<< k) _

theorem bchProduct_shiftLeft_one : ∀ k < 5, bchProduct (1 <<< k) = bchGen <<< k := by decide

/-! ### The division (R141) -/

/-- A step of the division takes away a multiple of the generator, or nothing. -/
theorem bchStep_eq_xor_bchProduct (v : FormatWord) {k : Nat} (hk : k - 10 < 5) : ∃ q, bchStep v k = v ^^^ bchProduct q := by
  by_cases hbit : v.getLsbD k
  · exact ⟨1 <<< (k - 10), by rw [bchProduct_shiftLeft_one _ hk, bchStep, if_pos hbit]⟩
  · exact ⟨0, by rw [bchStep, if_neg hbit, xorAdditive_bchProduct.map_zero, xor_zero]⟩

theorem foldl_bchStep_eq_xor_bchProduct {ks : List Nat} (hks : ∀ k ∈ ks, k - 10 < 5) :
    ∀ v, ∃ q, ks.foldl bchStep v = v ^^^ bchProduct q := by
  induction ks with
  | nil => exact fun v => ⟨0, by rw [xorAdditive_bchProduct.map_zero, xor_zero, List.foldl_nil]⟩
  | cons k ks ih =>
    intro v
    obtain ⟨hk, hks⟩ := List.forall_mem_cons.mp hks
    obtain ⟨q, hq⟩ := bchStep_eq_xor_bchProduct v hk
    obtain ⟨q', hq'⟩ := ih hks (bchStep v k)
    exact ⟨q ^^^ q', by rw [List.foldl_cons, hq', hq, xorAdditive_bchProduct, BitVec.xor_assoc]⟩

theorem xorAdditive_bchStep (k : Nat) : XorAdditive fun v => bchStep v k :=
  XorAdditive.addIfBit (f := id) (fun _ _ => rfl) (bchGen <<< (k - 10)) k

theorem xorAdditive_bchRemainder : XorAdditive bchRemainder :=
  (XorAdditive.foldl xorAdditive_bchStep _).comp ((xorAdditive_shiftLeft 15 10).comp (xorAdditive_setWidth 5 15))

/-- The division leaves no bit from bit 10 on. -/
theorem bchRemainder_ushiftRight : ∀ d, bchRemainder d >>> 10 = 0 := by decide

theorem getLsbD_bchRemainder_of_le (d : BitVec 5) {i : Nat} (h : 10 ≤ i) : (bchRemainder d).getLsbD i = false := by
  have hbit : (bchRemainder d >>> 10).getLsbD (i - 10) = false := by rw [bchRemainder_ushiftRight]; exact BitVec.getLsbD_zero
  rwa [BitVec.getLsbD_ushiftRight, Nat.add_sub_cancel' h] at hbit

/-! ### The word without the mask -/

/-- The codeword of `d`: `d · x^10` and its remainder, which take up different bits. -/
def bchCodeword (d : BitVec 5) : FormatWord := (d.setWidth 15 <<< 10) ^^^ bchRemainder d

theorem bchFormat_eq (d : BitVec 5) : bchFormat d = bchCodeword d ^^^ fmtXor := by
  have hdisjoint : (d.setWidth 15 <<< 10) ||| bchRemainder d = bchCodeword d := by
    ext i hi
    by_cases hlow : i < 10
    · simp [bchCodeword, hlow]
    · have hrem : (bchRemainder d)[i] = false := getLsbD_bchRemainder_of_le d (Nat.not_lt.mp hlow)
      simp [bchCodeword, hrem]
  rw [bchFormat, hdisjoint]

theorem bchFormat_xor_fmtXor (d : BitVec 5) : bchFormat d ^^^ fmtXor = bchCodeword d := by
  rw [bchFormat_eq, xor_cancel_right]

/-- The word starts with the descriptor. -/
theorem bchCodeword_ushiftRight (d : BitVec 5) : bchCodeword d >>> 10 = d.setWidth 15 := by
  rw [bchCodeword, BitVec.ushiftRight_xor_distrib, bchRemainder_ushiftRight]
  revert d
  decide

theorem bchCodeword_eq_bchProduct (d : BitVec 5) : ∃ q, bchCodeword d = bchProduct q := by
  obtain ⟨q, hq⟩ := foldl_bchStep_eq_xor_bchProduct (ks := [14, 13, 12, 11, 10]) (by decide) (d.setWidth 15 <<< 10)
  refine ⟨q, ?_⟩
  rw [bchCodeword, bchRemainder, hq, xor_cancel_left]

theorem xorAdditive_bchCodeword : XorAdditive bchCodeword := by
  intro d e
  rw [bchCodeword, bchCodeword, bchCodeword, xorAdditive_bchRemainder, BitVec.setWidth_xor, BitVec.shiftLeft_xor_distrib]
  ac_rfl

/-- The mask cancels between two words. -/
theorem bchFormat_xor_bchFormat (d e : BitVec 5) : bchFormat d ^^^ bchFormat e = bchCodeword (d ^^^ e) := by
  calc bchFormat d ^^^ bchFormat e = bchCodeword d ^^^ fmtXor ^^^ (bchCodeword e ^^^ fmtXor) := by
        rw [bchFormat_eq, bchFormat_eq]
    _ = bchCodeword d ^^^ (bchCodeword e ^^^ fmtXor ^^^ fmtXor) := by ac_rfl
    _ = bchCodeword d ^^^ bchCodeword e := by rw [xor_cancel_right]
    _ = bchCodeword (d ^^^ e) := (xorAdditive_bchCodeword d e).symm

/-! ### Distances (R142) -/

theorem wordDistance_eq_xor (u v : FormatWord) : wordDistance u v = wordDistance (u ^^^ v) 0 := by
  rw [wordDistance, wordDistance, xor_zero]

/-- Every codeword but the one of 0 has at least 7 set bits. -/
theorem seven_le_wordDistance_bchCodeword_zero : ∀ d : BitVec 5, d ≠ 0 → 7 ≤ wordDistance (bchCodeword d) 0 := by decide

theorem seven_le_wordDistance_bchFormat {d e : BitVec 5} (h : d ≠ e) : 7 ≤ wordDistance (bchFormat d) (bchFormat e) := by
  rw [wordDistance_eq_xor, bchFormat_xor_bchFormat]
  exact seven_le_wordDistance_bchCodeword_zero _ (mt BitVec.xor_eq_zero_iff.mp h)

/-! ### `FMT.ENC` (R144) -/

theorem exec_fmtEnc_of_le {d : Nat} (h : d ≤ 31) (s : State) :
    exec (.fmtEnc d) s = .next (s.withResponse ((bchFormat (BitVec.ofNat 5 d)).setWidth 32)) :=
  (if_pos h).trans (respond_setWidth (by decide) _ s)

theorem exec_fmtEnc_of_lt {d : Nat} (h : 31 < d) (s : State) : exec (.fmtEnc d) s = .next (s.withResponse 0x11000000#32) :=
  if_neg (Nat.not_le.mpr h)

end Sys2Proof.Machine
end

section
/-! The statements of 45_bch_format.md. -/

namespace Sys2Proof.Proofs.Format

open Sys2Proof Sys2Proof.Machine

/-- A format word without its mask is a multiple of the generator, written out as the statements do. -/
theorem bchFormat_unmasked_eq_bchProduct (d : BitVec 5) : ∃ q, bchFormat d ^^^ 0x5412 = bchProduct q := by
  obtain ⟨q, hq⟩ := bchCodeword_eq_bchProduct d
  exact ⟨q, (bchFormat_xor_fmtXor d).trans hq⟩

/-- Settles O34, for a descriptor and beyond 31: without the mask the word is the descriptor's codeword. -/
theorem fmtEncAnswersTheBchWord : Obligations.FmtEncAnswersTheBchWord := by
  intro d s
  refine ⟨packBytes_formatA 0x50, fun hd => ⟨bchFormat (BitVec.ofNat 5 d), exec_fmtEnc_of_le hd s, ?descriptor,
    bchFormat_unmasked_eq_bchProduct _⟩, fun hd => exec_fmtEnc_of_lt hd s⟩
  case descriptor =>
    calc ((bchFormat (BitVec.ofNat 5 d) ^^^ fmtXor) >>> 10).toNat = ((BitVec.ofNat 5 d).setWidth 15).toNat := by
          rw [bchFormat_xor_fmtXor, bchCodeword_ushiftRight]
      _ = d := by
          rw [BitVec.toNat_setWidth, BitVec.toNat_ofNat]
          omega

/-- Settles O35: the table is computed; the bits in which two words differ are those of a codeword other than 0. -/
theorem formatWordsFormTheTable : Obligations.FormatWordsFormTheTable :=
  ⟨by decide, fun _ _ hne => seven_le_wordDistance_bchFormat hne, bchFormat_unmasked_eq_bchProduct⟩

end Sys2Proof.Proofs.Format
end

section
/-! The classification of the 441 cells (46_qr_placement.md R151 to R158): how many are function modules, how many are dark,
and what is left for data. -/

namespace Sys2Proof.Machine

open Sys2Proof.Claims

/-! ### The 441 cells (R47) -/

theorem mem_allCells (c : Coord) : c ∈ allCells := by
  simp only [allCells, List.mem_flatMap, List.mem_map, List.mem_finRange, true_and]
  exact ⟨c.y, c.x, rfl⟩

theorem allCells_nodup : allCells.Nodup := by
  refine List.nodup_flatMap.mpr ⟨fun y _ => (List.nodup_finRange 21).map fun _ _ h => congrArg Coord.x h, ?rows⟩
  case rows =>
    refine (List.nodup_finRange 21).imp fun hne => List.disjoint_left.mpr fun c hc hc' => ?_
    obtain ⟨_, -, rfl⟩ := List.mem_map.mp hc
    obtain ⟨_, -, heq⟩ := List.mem_map.mp hc'
    exact hne (congrArg Coord.y heq).symm

theorem allCells_length : allCells.length = 441 := by simp [allCells]

/-! ### Dark cells are function modules (R157) -/

/-- Each 7 × 7 pattern lies in its 8 × 8 region (R151). -/
theorem inFinderRegion_of_finderDark {c : Coord} (h : finderDark c = true) : inFinderRegion c = true := by
  simp only [finderDark, inFinderRegion, corners, List.any_cons, List.any_nil, Bool.or_false, Bool.or_eq_true,
    Bool.and_eq_true, decide_eq_true_eq] at h ⊢
  omega

theorem isFunction_of_isDarkAtInit {c : Coord} (h : isDarkAtInit c = true) : isFunction c = true := by
  simp only [isDarkAtInit, timingDark, Bool.or_eq_true, Bool.and_eq_true] at h
  simp only [isFunction, Bool.or_eq_true]
  obtain (hfinder | ⟨htiming, -⟩) | hdark := h
  · exact .inl (.inl (.inl (inFinderRegion_of_finderDark hfinder)))
  · exact .inl (.inl (.inr htiming))
  · exact .inl (.inr hdark)

/-! ### The counts (R157, R158) -/

theorem length_filter_isFunction : (allCells.filter isFunction).length = 233 := by decide +kernel

theorem length_filter_isDarkAtInit : (allCells.filter isDarkAtInit).length = 106 := by decide +kernel

theorem length_filter_not_isFunction : (allCells.filter fun c => !isFunction c).length = 208 := by
  have hsplit := List.length_eq_length_filter_add (l := allCells) isFunction
  rw [allCells_length, length_filter_isFunction] at hsplit
  omega

theorem filter_dark_not_function : (allCells.filter fun c => isDarkAtInit c && !isFunction c) = [] := by
  refine List.filter_eq_nil_iff.mpr fun c _ h => ?_
  simp only [Bool.and_eq_true, Bool.not_eq_true'] at h
  obtain ⟨hdark, hdata⟩ := h
  rw [isFunction_of_isDarkAtInit hdark] at hdata
  exact absurd hdata (by decide)

end Sys2Proof.Machine
end

section
/-! The data order (46_qr_placement.md R159). The scanning loop visits the column pairs of the list; no column stands in two
pairs and only the timing column in none, so every cell with FUNC = 0 outside that column is listed once. -/

namespace Sys2Proof.Machine

open Sys2Proof.Claims

/-! ### The scanning loop -/

/-- The column pairs the loop of R159 goes through from column `right` on. -/
def columnPairs : Nat → Nat → List (Fin 21 × Fin 21)
  | 0, _ => []
  | fuel + 1, right =>
    if 1 ≤ right then
      let r := if right = 6 then 5 else right
      (Fin.ofNat 21 r, Fin.ofNat 21 (r - 1)) :: columnPairs fuel (r - 2)
    else []

theorem columnPairs_eq_pairColumns : columnPairs 11 20 = pairColumns := by decide

/-- The rows of one turn, counted as the loop counts them. -/
theorem rowOrder_eq_map_range (upward : Bool) :
    rowOrder upward = (List.range 21).map fun t => Fin.ofNat 21 (if upward then 20 - t else t) := by
  cases upward <;> decide

theorem turnCells_eq_pairCells (func : Plane) (right : Nat) (upward : Bool) :
    turnCells func right upward = pairCells func upward (Fin.ofNat 21 right, Fin.ofNat 21 (right - 1)) := by
  rw [pairCells, rowOrder_eq_map_range, List.flatMap_map]
  rfl

theorem scanLoop_eq_scanPairs (func : Plane) (fuel : Nat) :
    ∀ right upward, scanLoop func fuel right upward = scanPairs func upward (columnPairs fuel right) := by
  induction fuel with
  | zero => intro right upward; rfl
  | succ fuel ih =>
    intro right upward
    rw [scanLoop, columnPairs]
    split
    · simp only [scanPairs, ih, turnCells_eq_pairCells]
    · rfl

/-! ### Which cells are listed -/

theorem mem_rowOrder (upward : Bool) (y : Fin 21) : y ∈ rowOrder upward := by cases upward <;> simp [rowOrder]

theorem mem_pairCells {func : Plane} {upward : Bool} {pair : Fin 21 × Fin 21} {c : Coord} :
    c ∈ pairCells func upward pair ↔ c.x ∈ [pair.1, pair.2] ∧ func.get c = false := by
  have hcolumn : (∃ y ∈ rowOrder upward, c ∈ [(⟨pair.1, y⟩ : Coord), ⟨pair.2, y⟩]) ↔ c.x ∈ [pair.1, pair.2] := by
    obtain ⟨x, y⟩ := c
    simp [mem_rowOrder, exists_or]
  rw [pairCells, List.mem_filter, List.mem_flatMap, hcolumn, Bool.not_eq_true']

/-- The columns of a list of pairs, in scanning order. -/
def columnsOf (pairs : List (Fin 21 × Fin 21)) : List (Fin 21) := pairs.flatMap fun pair => [pair.1, pair.2]

theorem mem_scanPairs {func : Plane} {c : Coord} (pairs : List (Fin 21 × Fin 21)) :
    ∀ upward, c ∈ scanPairs func upward pairs ↔ c.x ∈ columnsOf pairs ∧ func.get c = false := by
  induction pairs with
  | nil => intro upward; simp [scanPairs, columnsOf]
  | cons pair rest ih =>
    intro upward
    rw [scanPairs, List.mem_append, mem_pairCells, ih, ← or_and_right, ← List.mem_append]
    rfl

/-- Only the timing column stands in no pair. -/
theorem mem_columnsOf_pairColumns : ∀ x : Fin 21, x ∈ columnsOf pairColumns ↔ x ≠ 6 := by decide

/-- The timing column holds function modules only: separators, finders and timing cells (R151, R153). -/
theorem isFunction_of_timing_column : ∀ y : Fin 21, isFunction ⟨6, y⟩ = true := by decide

theorem mem_dataOrder_funcPattern {c : Coord} : c ∈ dataOrder funcPattern ↔ isFunction c = false := by
  rw [dataOrder, mem_scanPairs, funcPattern_get, mem_columnsOf_pairColumns, and_iff_right_iff_imp]
  rintro hdata hx
  obtain ⟨x, y⟩ := c
  obtain rfl : x = 6 := hx
  rw [isFunction_of_timing_column] at hdata
  exact absurd hdata (by decide)

/-! ### No cell is listed twice -/

theorem rowOrder_nodup (upward : Bool) : (rowOrder upward).Nodup := by
  cases upward
  · exact List.nodup_finRange 21
  · exact List.nodup_reverse.mpr (List.nodup_finRange 21)

theorem pairCells_nodup (func : Plane) (upward : Bool) {pair : Fin 21 × Fin 21} (h : pair.1 ≠ pair.2) :
    (pairCells func upward pair).Nodup := by
  refine (List.nodup_flatMap.mpr ⟨fun y _ => ?row, ?rows⟩).filter _
  case row => simp [h]
  case rows =>
    have hrow {c : Coord} {y : Fin 21} (hc : c ∈ [(⟨pair.1, y⟩ : Coord), ⟨pair.2, y⟩]) : c.y = y := by
      obtain rfl | rfl : c = ⟨pair.1, y⟩ ∨ c = ⟨pair.2, y⟩ := by simpa using hc
      · rfl
      · rfl
    exact (rowOrder_nodup upward).imp fun hne =>
      List.disjoint_left.mpr fun c hc hc' => hne ((hrow hc).symm.trans (hrow hc'))

theorem scanPairs_nodup (func : Plane) {pairs : List (Fin 21 × Fin 21)} (h : (columnsOf pairs).Nodup) :
    ∀ upward, (scanPairs func upward pairs).Nodup := by
  induction pairs with
  | nil => intro upward; exact List.nodup_nil
  | cons pair rest ih =>
    intro upward
    rw [columnsOf, List.flatMap_cons] at h
    obtain ⟨hpair, hrest, hdisjoint⟩ := List.nodup_append'.mp h
    refine (pairCells_nodup func upward (by simpa using hpair)).append (ih hrest _) fun c hc hc' => ?_
    exact hdisjoint (mem_pairCells.mp hc).1 ((mem_scanPairs rest _).mp hc').1

theorem columnsOf_pairColumns_nodup : (columnsOf pairColumns).Nodup := by decide

theorem dataOrder_nodup (func : Plane) : (dataOrder func).Nodup := scanPairs_nodup func columnsOf_pairColumns_nodup true

/-- The data order goes through the cells that are no function modules in another order. -/
theorem dataOrder_funcPattern_perm : (dataOrder funcPattern).Perm (allCells.filter fun c => !isFunction c) := by
  refine (List.perm_ext_iff_of_nodup (dataOrder_nodup _) (allCells_nodup.filter _)).mpr fun c => ?_
  simp [mem_dataOrder_funcPattern, mem_allCells]

theorem dataOrder_funcPattern_length : (dataOrder funcPattern).length = 208 :=
  dataOrder_funcPattern_perm.length_eq.trans length_filter_not_isFunction

end Sys2Proof.Machine
end

section
/-! What `QR.INIT`, `QR.DATA` and `QR.FMT` do in each of their cases (46_qr_placement.md R161 to R164), and that a complete
symbol lets none but the first through (R167). -/

namespace Sys2Proof.Machine

open Sys2Proof.Claims

theorem raise_seq (s : State) : raise .seq s = .next (s.withResponse 0x12000000#32) := rfl

/-- The frame of a command that writes MOD and the stage. -/
theorem State.onlySymbolChanged_redrawn (s : State) (p : Plane) (q : BitVec 3) (w : Word32) :
    s.onlySymbolChanged (((s.withMod p).withQrst q).withResponse w) w := ⟨rfl, rfl, rfl, rfl⟩

/-! ### `QR.INIT` (R161) -/

/-- `s` after `QR.INIT`. -/
def State.qrStarted (s : State) : State :=
  (((s.withMod modPattern).withFunc funcPattern).withQrst stageInit).withResponse 0x00000000#32

theorem exec_qrInit (s : State) : exec .qrInit s = .next s.qrStarted := rfl

theorem State.onlySymbolChanged_qrStarted (s : State) : s.onlySymbolChanged s.qrStarted 0x00000000#32 :=
  ⟨rfl, rfl, rfl, rfl⟩

/-- The drawn planes, row by row (R156). -/
theorem initRows_getElem? : ∀ y : Fin 21, initRows[y.val]? = some (rowValue funcPattern y, rowValue modPattern y) := by
  simp only [rowValue, funcPattern_get, modPattern_get]
  decide +kernel

/-! ### `QR.DATA` (R162) -/

/-- `s` after `QR.DATA` at a stage that lets it through. -/
def State.qrPlaced (s : State) : State :=
  ((s.withMod (s.mod.putAll (dataWrites s.func (s.cwList Config.nCw)))).withQrst (setDataDone s.qrst)).withResponse
    0x00000000#32

theorem State.qrPlaced_mod (s : State) : s.qrPlaced.mod = s.mod.putAll (dataWrites s.func (s.cwList 26)) := rfl
theorem State.qrPlaced_func (s : State) : s.qrPlaced.func = s.func := by simp [qrPlaced]
theorem State.qrPlaced_qrst (s : State) : s.qrPlaced.qrst = s.qrst ||| 0b010 := rfl

theorem exec_qrData_of_ready {s : State} (hinit : s.initDone = true) (hdata : s.dataDone = false) :
    exec .qrData s = .next s.qrPlaced :=
  if_neg (by simp [hinit, hdata])

theorem exec_qrData_of_wrong_stage {s : State} (h : s.initDone = false ∨ s.dataDone = true) :
    exec .qrData s = .next (s.withResponse 0x12000000#32) :=
  (if_pos (by simpa using h)).trans (raise_seq s)

/-- Bits paired off with cells fill a part of the cells, in their order. -/
theorem zipWith_cells_sublist (f : Coord → Bool → Bool) (cells : List Coord) (bits : List Bool) :
    ((List.zipWith (fun c b => (c, f c b)) cells bits).map Prod.fst).Sublist cells := by
  induction cells generalizing bits with
  | nil => simp
  | cons c cells ih =>
    cases bits with
    | nil => simp
    | cons b bits => exact (ih bits).cons_cons c

/-- No cell is written twice: the writes name cells of the data order, in its order. -/
theorem dataWrites_cells_nodup (func : Plane) (codewords : List Byte) : ((dataWrites func codewords).map Prod.fst).Nodup :=
  (dataOrder_nodup func).sublist (zipWith_cells_sublist (fun c b => b ^^ mask0 c) _ _)

/-- Cell n of the data order takes bit n of the codewords, inverted where the mask says so (R160). -/
theorem get_putAll_dataWrites_of_dataOrder (p func : Plane) (codewords : List Byte) {n : Nat} {c : Coord} {b : Bool}
    (hc : (dataOrder func)[n]? = some c) (hb : (bytesBits codewords)[n]? = some b) :
    (p.putAll (dataWrites func codewords)).get c = (b ^^ mask0 c) :=
  Plane.get_putAll_of_mem _ _ _ _ (dataWrites_cells_nodup func codewords)
    (List.mem_of_getElem? (List.getElem?_zipWith_eq_some.mpr ⟨c, b, hc, hb, rfl⟩))

theorem State.bytesBits_cwList_getElem? (s : State) {count n : Nat} (h : n < 8 * count) :
    (bytesBits (s.cwList count))[n]? = some ((s.cw (n / 8)).getLsbD (7 - n % 8)) := by
  have hbit := bytesBits_getElem? (s.cwList count) (n / 8) (n % 8) (Nat.mod_lt n (by decide))
  rw [Nat.div_add_mod] at hbit
  rw [hbit, State.cwList_eq_map, List.getElem?_map, List.getElem?_range (by omega)]
  rfl

/-! ### `QR.FMT` (R164) -/

theorem encode_qrFmt_eq_or (w : FormatWord) : encode (.qrFmt w) = 0x62000000#32 ||| w.setWidth 32 :=
  congrArg (· ||| w.setWidth 32) (show packBytes 0x62 0 0 0 = 0x62000000#32 by decide)

/-- `s` after `QR.FMT` at a stage that lets it through. -/
def State.qrFormatted (s : State) (w : FormatWord) : State :=
  ((s.withMod (s.mod.putAll (formatWrites w))).withQrst (setFmtDone s.qrst)).withResponse 0x00000000#32

theorem State.qrFormatted_mod (s : State) (w : FormatWord) : (s.qrFormatted w).mod = s.mod.putAll (formatWrites w) := rfl
theorem State.qrFormatted_func (s : State) (w : FormatWord) : (s.qrFormatted w).func = s.func := by simp [qrFormatted]
theorem State.qrFormatted_qrst (s : State) (w : FormatWord) : (s.qrFormatted w).qrst = s.qrst ||| 0b100 := rfl

theorem exec_qrFmt_of_ready {s : State} (hinit : s.initDone = true) (hfmt : s.fmtDone = false) (w : FormatWord) :
    exec (.qrFmt w) s = .next (s.qrFormatted w) :=
  if_neg (by simp [hinit, hfmt])

theorem exec_qrFmt_of_wrong_stage {s : State} (h : s.initDone = false ∨ s.fmtDone = true) (w : FormatWord) :
    exec (.qrFmt w) s = .next (s.withResponse 0x12000000#32) :=
  (if_pos (by simpa using h)).trans (raise_seq s)

/-! ### A complete symbol (R167 d) -/

/-- At stage 0b111 `QR.DATA` and `QR.FMT` only answer, so every command but `QR.INIT` keeps the symbol. -/
theorem Ends.symbol_eq_of_complete {i : Instr} {s t : State} (h : Ends i s t) (hs : s.qrst = 0b111) (hi : i ≠ .qrInit) :
    t.mod = s.mod ∧ t.qrst = s.qrst := by
  cases h with
  | answered _ _ h => subst h; exact ⟨rfl, rfl⟩
  | stored _ _ _ h => subst h; exact ⟨rfl, rfl⟩
  | drawn hinit => exact absurd hinit hi
  | placed _ _ hdata => simp [State.dataDone, hs] at hdata
  | formatted _ _ _ hfmt => simp [State.fmtDone, hs] at hfmt

end Sys2Proof.Machine
end

section
/-! What `QR.GET` and `QR.ROW` answer, bit by bit (46_qr_placement.md R165, R166). -/

namespace Sys2Proof

/-- The word of format AB with a number in both operand fields (30_encoding.md R60, R61). -/
theorem packBytes_formatAB_field8 (op : Byte) {m n : Nat} (hm : m < 256) (hn : n < 256) :
    packBytes op (field8 m) (field8 n) 0 =
      (op.setWidth 32 <<< 24) ||| (BitVec.ofNat 32 m <<< 16) ||| (BitVec.ofNat 32 n <<< 8) := by
  rw [packBytes_formatAB op _ hm, setWidth_field8 hn]

end Sys2Proof

namespace Sys2Proof.Machine

/-- A number that fits the value field comes back bit by bit in an OK response (R63). -/
theorem getLsbD_responseWord_value {n : Nat} (h : n < 2 ^ 24) (k : Nat) :
    (responseWord .ok (value n)).getLsbD k = n.testBit k := by
  rw [responseWord_ok, BitVec.getLsbD, BitVec.toNat_setWidth, value, BitVec.toNat_ofNat, Nat.mod_eq_of_lt h,
    Nat.mod_eq_of_lt (by omega)]

/-! ### `QR.GET` (R165) -/

theorem moduleValue_lt (s : State) (c : Coord) : moduleValue s c < 4 := by
  have hfunc := Bool.toNat_lt (s.func.get c)
  have hmod := Bool.toNat_lt (s.mod.get c)
  rw [moduleValue]
  omega

theorem moduleValue_testBit_zero (s : State) (c : Coord) : (moduleValue s c).testBit 0 = s.mod.get c := by
  rw [moduleValue]
  cases s.mod.get c <;> simp

theorem moduleValue_testBit_one (s : State) (c : Coord) : (moduleValue s c).testBit 1 = s.func.get c := by
  rw [moduleValue]
  cases s.mod.get c <;> cases s.func.get c <;> rfl

theorem exec_qrGet_of_lt (y x : Fin 21) (s : State) :
    exec (.qrGet y.val x.val) s = .next (s.withResponse (responseWord .ok (value (moduleValue s ⟨x, y⟩)))) :=
  dif_pos ⟨y.isLt, x.isLt⟩

theorem exec_qrGet_of_outside {y x : Nat} (h : 20 < y ∨ 20 < x) (s : State) :
    exec (.qrGet y x) s = .next (s.withResponse 0x11000000#32) :=
  (dif_neg (by omega)).trans (raise_range s)

/-! ### `QR.ROW` (R166) -/

/-- Bits put in at their columns, one after the other. -/
theorem foldl_or_shiftLeft_testBit (f : Fin 21 → Bool) (k : Nat) (xs : List (Fin 21)) :
    ∀ v, (xs.foldl (fun v x => v ||| ((f x).toNat <<< x.val)) v).testBit k =
      (v.testBit k || xs.any fun x => f x && decide (x.val = k)) := by
  induction xs with
  | nil => intro v; simp
  | cons x xs ih =>
    intro v
    have hbit : ((f x).toNat <<< x.val).testBit k = (f x && decide (x.val = k)) := by
      cases f x <;> simp [Nat.shiftLeft_eq, Nat.testBit_two_pow]
    rw [List.foldl_cons, ih, Nat.testBit_or, hbit, List.any_cons, Bool.or_assoc]

theorem rowValue_testBit (p : Plane) (y x : Fin 21) : (rowValue p y).testBit x.val = p.get ⟨x, y⟩ := by
  rw [rowValue, foldl_or_shiftLeft_testBit (fun x => p.get ⟨x, y⟩), Nat.zero_testBit, Bool.false_or, Bool.eq_iff_iff,
    List.any_eq_true]
  simp [← Fin.ext_iff]

theorem rowValue_testBit_of_le (p : Plane) (y : Fin 21) {k : Nat} (h : 21 ≤ k) : (rowValue p y).testBit k = false := by
  rw [rowValue, foldl_or_shiftLeft_testBit (fun x => p.get ⟨x, y⟩), Nat.zero_testBit, Bool.false_or, List.any_eq_false]
  rintro x -
  simp [show x.val ≠ k by omega]

theorem rowValue_lt (p : Plane) (y : Fin 21) : rowValue p y < 2 ^ 21 :=
  Nat.lt_pow_two_of_testBit _ fun _ h => rowValue_testBit_of_le p y h

/-- The response with a row's value: column x in bit x, nothing above. -/
theorem rowResponse_getLsbD (p : Plane) (y : Fin 21) :
    (∀ x : Fin 21, (responseWord .ok (value (rowValue p y))).getLsbD x.val = p.get ⟨x, y⟩) ∧
      ∀ k, 21 ≤ k → (responseWord .ok (value (rowValue p y))).getLsbD k = false := by
  have hbit := getLsbD_responseWord_value ((rowValue_lt p y).trans (by decide))
  exact ⟨fun x => (hbit _).trans (rowValue_testBit p y x), fun k hk => (hbit k).trans (rowValue_testBit_of_le p y hk)⟩

theorem exec_qrRow_mod (y : Fin 21) (s : State) :
    exec (.qrRow y.val 0) s = .next (s.withResponse (responseWord .ok (value (rowValue s.mod y)))) :=
  dif_pos y.isLt

theorem exec_qrRow_func (y : Fin 21) (s : State) :
    exec (.qrRow y.val 1) s = .next (s.withResponse (responseWord .ok (value (rowValue s.func y)))) :=
  dif_pos y.isLt

theorem exec_qrRow_of_outside {y sel : Nat} (h : 20 < y ∨ 1 < sel) (s : State) :
    exec (.qrRow y sel) s = .next (s.withResponse 0x11000000#32) := by
  by_cases hy : y < 21
  · match sel, h.resolve_left (by omega) with
    | _ + 2, _ => exact (dif_pos hy).trans (raise_range s)
  · exact (dif_neg hy).trans (raise_range s)

end Sys2Proof.Machine
end

section
/-! The statements of 46_qr_placement.md. -/

namespace Sys2Proof.Proofs.QrPlacement

open Sys2Proof Sys2Proof.Machine

/-- Settles O36: the planes drawn are those of the table, whatever stood there before. -/
theorem qrInitDrawsTheFunctionPatterns : Obligations.QrInitDrawsTheFunctionPatterns :=
  ⟨by decide, fun s => ⟨s.qrStarted, exec_qrInit s, s.onlySymbolChanged_qrStarted, rfl, initRows_getElem?⟩⟩

/-- Settles O38: the loop visits the pairs of the list, whose columns are all but the timing column, each once. -/
theorem dataOrderIsTheColumnScan : Obligations.DataOrderIsTheColumnScan :=
  ⟨fun func => (scanLoop_eq_scanPairs func 11 20 true).trans (congrArg _ columnPairs_eq_pairColumns),
    dataOrder_funcPattern_length, dataOrder_nodup _, fun _ => mem_dataOrder_funcPattern⟩

/-- Settles O39: each cell of the data order is written once, with its own bit, and no function module is in it. -/
theorem qrDataPlacesTheMaskedBits : Obligations.QrDataPlacesTheMaskedBits := by
  refine ⟨by decide, fun s => ⟨fun hinit hdata hfunc => ?ready, exec_qrData_of_wrong_stage⟩⟩
  case ready =>
    refine ⟨s.qrPlaced, exec_qrData_of_ready hinit hdata, s.onlySymbolChanged_redrawn _ _ _, s.qrPlaced_func,
      s.qrPlaced_qrst, fun n c hc => ?data, fun c hc => ?function⟩
    case data =>
      have hn : n < 8 * 26 := (List.getElem?_eq_some_iff.mp hc).1.trans_eq dataOrder_funcPattern_length
      rw [s.qrPlaced_mod, hfunc]
      exact get_putAll_dataWrites_of_dataOrder _ _ _ hc (s.bytesBits_cwList_getElem? hn)
    case function =>
      rw [s.qrPlaced_mod]
      exact get_putAll_dataWrites_of_func _ _ _ (by rw [hfunc, funcPattern_get, hc])

/-- Settles O40: the thirty strip cells are distinct, so each holds the bit written to it, and no other cell is written. -/
theorem qrFmtWritesBothStrips : Obligations.QrFmtWritesBothStrips := by
  intro w s
  refine ⟨encode_qrFmt_eq_or w, fun hinit hfmt => ?ready, fun h => exec_qrFmt_of_wrong_stage h w⟩
  case ready =>
    refine ⟨s.qrFormatted w, exec_qrFmt_of_ready hinit hfmt w, s.onlySymbolChanged_redrawn _ _ _, s.qrFormatted_func w,
      s.qrFormatted_qrst w, ?_⟩
    rw [s.qrFormatted_mod]
    refine ⟨fun k c hc => ?stripA, fun k c hc => ?stripB, fun c hA hB => ?other⟩
    case stripA => exact get_putAll_formatWrites_of_strip _ _ (.inl hc)
    case stripB => exact get_putAll_formatWrites_of_strip _ _ (.inr hc)
    case other => exact get_putAll_formatWrites_of_not_onStrip _ _ (by simp [onStrip, hA, hB])

/-- Settles O41, inside the grid and outside it. -/
theorem qrGetAnswersOneModule : Obligations.QrGetAnswersOneModule := by
  intro s
  refine ⟨fun _ _ => packBytes_formatAB_field8 0x63, fun y x => ?module, fun y x h => exec_qrGet_of_outside h s⟩
  case module =>
    have hlt := moduleValue_lt s ⟨x, y⟩
    have hbit := getLsbD_responseWord_value (hlt.trans (show 4 < 2 ^ 24 by decide))
    refine ⟨_, exec_qrGet_of_lt y x s, (hbit 0).trans (moduleValue_testBit_zero s _),
      (hbit 1).trans (moduleValue_testBit_one s _), fun k hk => (hbit k).trans ?_⟩
    have hpow : 2 ^ 2 ≤ 2 ^ k := Nat.pow_le_pow_right Nat.two_pos hk
    exact Nat.testBit_lt_two_pow (hlt.trans_le hpow)

/-- Settles O42, for either plane, and for another selector or a row outside the grid. -/
theorem qrRowAnswersOneRow : Obligations.QrRowAnswersOneRow :=
  fun s => ⟨fun _ _ => packBytes_formatAB_field8 0x64, fun y => ⟨_, exec_qrRow_mod y s, rowResponse_getLsbD s.mod y⟩,
    fun y => ⟨_, exec_qrRow_func y s, rowResponse_getLsbD s.func y⟩, fun _ _ h => exec_qrRow_of_outside h s⟩

/-- Settles O43: at stage 0b111 the ways to end that write the symbol have lost their stage condition. -/
theorem completeSymbolChangesOnlyThroughInit : Obligations.CompleteSymbolChangesOnlyThroughInit := by
  intro i s t hs hi hexec
  have hends := exec_ends hexec
  obtain ⟨hmod, hqrst⟩ := hends.symbol_eq_of_complete hs hi
  exact ⟨hmod, hends.func_eq hi, hqrst⟩

/-- Settles O37: two counts over the 441 cells; the others follow from them. -/
theorem functionModuleCounts : Obligations.FunctionModuleCounts :=
  ⟨allCells_length, length_filter_isFunction, length_filter_isDarkAtInit, length_filter_not_isFunction,
    filter_dark_not_function, strips_nodup, rfl,
    List.all_eq_true.mpr fun _ hc => isFunction_of_onStrip (onStrip_iff_mem.mpr hc)⟩

end Sys2Proof.Proofs.QrPlacement
end

section
/-! What a command word can answer and what a failing one leaves (60_exceptions.md R212, R214, R217). -/

namespace Sys2Proof.Machine

open Sys2Proof.Claims

/-- The block acts only in answer to a command (R217). -/
theorem step_of_no_command {s : State} (h : nextCommand s = none) : step s = .next s := by
  simp only [step, h]

/-! ### A failing command (R212) -/

/-- The response a command added is the only one of that place. -/
theorem response_eq_of_append {rs : List Word32} {r w : Word32} (h : rs ++ [r] = rs ++ [w]) : r = w :=
  List.singleton_inj.mp (List.append_cancel_left h)

/-- An OK response after updates that give no response themselves. -/
theorem status_eq_zero_of_ok {s t u : State} {v : Value} {w : Word32} (h : t = u.withResponse (responseWord .ok v))
    (hu : u.responses = s.responses) (hresponses : t.responses = s.responses ++ [w]) : responseStatus w = 0x00#8 := by
  rw [h, State.withResponse_responses, hu] at hresponses
  rw [← response_eq_of_append hresponses, responseStatus_responseWord]
  rfl

/-- Every way to end that writes something answers OK; so a command that does not has only answered. -/
theorem Ends.eq_withResponse_of_status {i : Instr} {s t : State} {w : Word32} (h : Ends i s t)
    (hresponses : t.responses = s.responses ++ [w]) (hst : responseStatus w ≠ 0x00#8) : t = s.withResponse w := by
  cases h with
  | answered st v h => subst h; rw [response_eq_of_append hresponses]
  | stored base bs v h => exact absurd (status_eq_zero_of_ok h (by simp) hresponses) hst
  | drawn _ h | placed _ _ _ h | formatted _ _ _ _ h => exact absurd (status_eq_zero_of_ok h (by simp) hresponses) hst

theorem perform_eq_withResponse_of_status {c : Word32} {s t : State} {w : Word32} (h : perform c s = .next t)
    (hresponses : t.responses = s.responses ++ [w]) (hst : responseStatus w ≠ 0x00#8) : t = s.withResponse w := by
  cases hdec : decode c with
  | ok i =>
    rw [perform_of_decode hdec] at h
    exact (exec_ends h).eq_withResponse_of_status hresponses hst
  | error e =>
    rw [perform_of_error hdec] at h
    obtain rfl := raise_next h
    rw [response_eq_of_append hresponses]

/-! ### The status table (R214) -/

/-- An outcome of a command in `s` whose response is OK or has one of the listed statuses. -/
def StatusWithin (sts : List Status) (s : State) (o : Host.Outcome State Fault Refusal) : Prop :=
  ∃ t st v, o = .next t ∧ t.responses = s.responses ++ [responseWord st v] ∧ (st = .ok ∨ st ∈ sts)

namespace StatusWithin

variable {s : State} {sts : List Status}

/-- An OK response after updates that give no response themselves. -/
theorem updated {u : State} (hu : u.responses = s.responses) (v : Value) : StatusWithin sts s (respond v u) :=
  ⟨_, .ok, v, respond_eq v u, congrArg (· ++ _) hu, .inl rfl⟩

theorem answered (v : Value) : StatusWithin sts s (respond v s) := updated rfl v

theorem raised {st : Status} (h : st ∈ sts) : StatusWithin sts s (raise st s) :=
  ⟨_, st, 0, raise_eq st s, rfl, .inr h⟩

theorem ite {p : Prop} [Decidable p] {a b : Host.Outcome State Fault Refusal} (ha : StatusWithin sts s a)
    (hb : StatusWithin sts s b) : StatusWithin sts s (if p then a else b) := by
  split
  · exact ha
  · exact hb

end StatusWithin

/-- Each meaning raises only what its row of the table marks. `B32.DEC` has an arm for INVALID_CHAR that no character
reaches: all it keeps has a value. -/
theorem exec_statusWithin (i : Instr) (s : State) : StatusWithin (failures i) s (exec i s) := by
  have only (st : Status) : st ∈ [st] := List.mem_singleton_self st
  cases i with
  | nop | gfExp | gfMul => exact .answered _
  | bufWr addr data => exact .ite (.updated (State.withBuf_responses s _) _) (.raised (only _))
  | bufRd addr => exact .ite (.answered _) (.raised (only _))
  | csrRd idx =>
    simp only [exec, execCsrRd]
    cases csrValue idx s with
    | some v => exact .answered v
    | none => exact .raised (only _)
  | b32Enc off len => exact .ite (.updated (State.withBuf_responses s _) _) (.raised (only _))
  | b32Dec cnt =>
    simp only [exec, execB32Dec, s.b32Decode_symsList]
    exact .ite (.updated (State.withBuf_responses s _) _) (.raised (only _))
  | b32Sym | ck5 | rsGen | rsSyn | fmtEnc => exact .ite (.answered _) (.raised (only _))
  | b32Val ch =>
    simp only [exec, execB32Val]
    cases b32Value ch with
    | some v => exact .answered _
    | none => exact .raised (only _)
  | gfLog v =>
    simp only [exec, execGfLog]
    cases logTable v with
    | some n => exact .answered _
    | none => exact .raised (only _)
  | rsEnc => exact .updated (State.withBuf_responses s _) _
  | qrInit => exact .updated (by simp) 0
  | qrData | qrFmt => exact .ite (.raised (only _)) (.updated (by simp) 0)
  | qrGet y x =>
    simp only [exec, execQrGet]
    split
    · exact .answered _
    · exact .raised (only _)
  | qrRow y sel =>
    simp only [exec, execQrRow]
    split
    · match sel with
      | 0 | 1 => exact .answered _
      | _ + 2 => exact .raised (only _)
    · exact .raised (only _)

end Sys2Proof.Machine
end

section
/-! The statements of 60_exceptions.md. -/

namespace Sys2Proof.Proofs.Exceptions

open Sys2Proof Sys2Proof.Machine

/-- Settles O46: the state after the word is the one before it with the response added. -/
theorem failedCommandChangesNothing : Obligations.FailedCommandChangesNothing := by
  intro c s t w hperform hresponses hst
  obtain rfl := perform_eq_withResponse_of_status hperform hresponses hst
  exact ⟨rfl, rfl, rfl, rfl, rfl⟩

/-- Settles O47, command by command. -/
theorem statusesFollowTheTable : Obligations.StatusesFollowTheTable := by
  intro i s t w hexec hresponses
  obtain ⟨u, st, v, hu, hanswer, hst⟩ := exec_statusWithin i s
  obtain rfl : u = t := next_eq_iff.mp (hexec.symm.trans hu)
  obtain rfl := response_eq_of_append (hanswer.symm.trans hresponses)
  rw [responseStatus_responseWord]
  exact hst.imp (congrArg statusCode) fun hmem => ⟨st, hmem, rfl⟩

/-- Settles O6. -/
theorem stepWithoutCommandChangesNothing : Obligations.StepWithoutCommandChangesNothing := fun _ => step_of_no_command

end Sys2Proof.Proofs.Exceptions
end

section
/-! The host's side of the port (47_host_procedures.md R187, R188, R192): what one issued command answers and leaves in the
block, and what the host's runs of writes and reads leave. -/

namespace Sys2Proof.Machine

/-! ### One command -/

/-- The state in which the meaning of an offered command runs: the command in the host's list, the index moved on. -/
def State.accepting (s : State) (i : Instr) : State := (s.offer (encode i)).tick

/-- Offering a command, performing it and reading its response is the command's meaning. -/
theorem issue_of_exec {s u : State} {i : Instr} {w : Word32} (hwf : i.wf = true)
    (h : exec i (s.accepting i) = .next (u.withResponse w)) : issue s i = (u.withResponse w, w) := by
  have hstep : step (s.offer (encode i)) = .next (u.withResponse w) := by
    rw [step_of_nextCommand (nextCommand_offer s _), perform_of_decode (decode_encode hwf)]
    exact h
  simp only [issue, hstep, State.withResponse_responses, List.getLastD_concat]

/-- A command that only answers leaves the block alone. -/
theorem issue_of_answer {s : State} {i : Instr} {w : Word32} (hwf : i.wf = true)
    (h : exec i (s.accepting i) = .next ((s.accepting i).withResponse w)) :
    ∃ t, issue s i = (t, w) ∧ t.sameBlock s :=
  ⟨_, issue_of_exec hwf h, rfl, rfl, rfl, rfl⟩

theorem responseValue_setWidth {n : Nat} (v : BitVec n) : responseValue (v.setWidth 32) = v.setWidth 24 := by
  apply BitVec.eq_of_getLsbD_eq
  intro k hk
  simp [responseValue, hk, show k < 32 by omega]

theorem setWidth_responseValue {n : Nat} (h : n ≤ 24) (v : BitVec n) :
    (responseValue (v.setWidth 32)).setWidth n = v := by
  rw [responseValue_setWidth, BitVec.setWidth_setWidth_of_le _ h, BitVec.setWidth_eq]

theorem toNat_responseValue {n : Nat} (h : n ≤ 24) (v : BitVec n) : (responseValue (v.setWidth 32)).toNat = v.toNat := by
  rw [responseValue_setWidth, BitVec.toNat_setWidth_of_le h]

/-! ### Writing and reading bytes -/

theorem fits8_of_mapped {a : Nat} (h : mapped a = true) : fits8 a = true := by
  have haddr := (mapped_iff a).mp h
  exact decide_eq_true (by omega)

theorem issue_bufWr_buf (s : State) {addr : Nat} (h : mapped addr = true) (data : Byte) :
    (issue s (.bufWr addr data)).1.buf = s.buf.write addr data := by
  rw [issue_of_exec (i := .bufWr addr data) (fits8_of_mapped h) (exec_bufWr_of_mapped h data _)]
  rfl

theorem issue_bufRd (s : State) {addr : Nat} (h : mapped addr = true) :
    ∃ t, issue s (.bufRd addr) = (t, (s.buf.read addr).setWidth 32) ∧ t.sameBlock s :=
  issue_of_answer (fits8_of_mapped h) (exec_bufRd_of_mapped h _)

/-- Every address of a range is one of its first address and of the range after it. -/
theorem mapped_range_succ {base n : Nat} (h : ∀ k < n + 1, mapped (base + k) = true) :
    mapped base = true ∧ ∀ k < n, mapped (base + 1 + k) = true := by
  refine ⟨h 0 (Nat.succ_pos n), fun k hk => ?_⟩
  rw [Nat.add_assoc, Nat.add_comm 1 k]
  exact h (k + 1) (Nat.succ_lt_succ hk)

/-- The host's run of `BUF.WR` stores the bytes one after the other. -/
theorem issueAll_writeBytes_buf (bs : List Byte) : ∀ (s : State) (base : Nat),
    (∀ k < bs.length, mapped (base + k) = true) → (issueAll s (writeBytes base bs)).buf = s.buf.writeRange base bs := by
  induction bs with
  | nil => intro s base _; rfl
  | cons b bs ih =>
    intro s base h
    obtain ⟨hfirst, hrest⟩ := mapped_range_succ h
    rw [writeBytes, issueAll, ih _ _ hrest, issue_bufWr_buf s hfirst, Memory.writeRange]

/-- The bytes the host has written are there to be read. -/
theorem readRange_issueAll_writeBytes (s : State) {base : Nat} {bs : List Byte}
    (h : ∀ k < bs.length, mapped (base + k) = true) :
    (issueAll s (writeBytes base bs)).buf.readRange base bs.length = bs := by
  rw [issueAll_writeBytes_buf bs s base h, Memory.readRange_writeRange_self _ h]

/-- The host's run of `BUF.RD` reads the range as it stands: no read changes it. -/
theorem readBytes_eq (n : Nat) : ∀ (s : State) (base : Nat), (∀ k < n, mapped (base + k) = true) →
    ∃ t, readBytes s base n = (t, s.buf.readRange base n) := by
  induction n with
  | zero => intro s base _; exact ⟨s, rfl⟩
  | succ n ih =>
    intro s base h
    obtain ⟨hfirst, hrest⟩ := mapped_range_succ h
    obtain ⟨t, hissue, hsame⟩ := issue_bufRd s hfirst
    obtain ⟨u, hread⟩ := ih t (base + 1) hrest
    have hrange : s.buf.readRange base (n + 1) = s.buf.read base :: s.buf.readRange (base + 1) n := by
      rw [Nat.add_comm n 1, Memory.readRange_add]
      rfl
    refine ⟨u, ?_⟩
    simp only [readBytes, hissue, hread, setWidth_responseValue (show 8 ≤ 24 by decide), hsame.buf, hrange]

/-! ### The base32 and checksum commands -/

theorem fits8_and_of_le {m n : Nat} (h : m + n ≤ 20) : (fits8 m && fits8 n) = true :=
  (Bool.and_eq_true _ _).mpr ⟨decide_eq_true (by omega), decide_eq_true (by omega)⟩

theorem issue_ck5 (s : State) {off len : Nat} (h : off + len ≤ 20) :
    ∃ t, issue s (.ck5 off len) = (t, (checksum5 (s.bytesList off len)).setWidth 32) ∧ t.sameBlock s :=
  issue_of_answer (fits8_and_of_le h) (exec_ck5_of_le h _)

theorem issue_b32Sym (s : State) {v : Nat} (h : v < 32) :
    ∃ t, issue s (.b32Sym v) = (t, (alphabetCode v).setWidth 32) ∧ t.sameBlock s :=
  issue_of_answer (decide_eq_true (by omega)) (exec_b32Sym_of_lt h _)

theorem issue_b32Val_of_some (s : State) {ch : Byte} {v : Nat} (h : b32Value ch = some v) :
    ∃ t, issue s (.b32Val ch) = (t, responseWord .ok (value v)) := by
  have hv : v < 2 ^ 24 := (b32Value_lt h).trans (by decide)
  rw [responseWord_ok_value hv]
  exact ⟨_, issue_of_exec rfl (exec_b32Val_of_some h _)⟩

theorem issue_b32Val_of_none (s : State) {ch : Byte} (h : b32Value ch = none) :
    ∃ t, issue s (.b32Val ch) = (t, responseWord .invalidChar 0) :=
  ⟨_, issue_of_exec rfl (exec_b32Val_of_none h _)⟩

/-- After `B32.ENC off, len` SYMS holds the symbols of the range (R95). -/
theorem issue_b32Enc (s : State) {off len : Nat} (h : off + len ≤ 20) :
    ∃ t w, issue s (.b32Enc off len) = (t, w) ∧ t.symsList ((8 * len + 4) / 5) = b32Encode (s.bytesList off len) :=
  ⟨_, _, issue_of_exec (i := .b32Enc off len) (fits8_and_of_le h) (exec_b32Enc_of_le h _),
    (s.accepting _).symsList_encoded h⟩

/-- `B32.DEC cnt` answers how many bytes it has written, and BYTES holds them (R96). -/
theorem issue_b32Dec (s : State) {cnt : Nat} (h : cnt ≤ 32) :
    ∃ t, issue s (.b32Dec cnt) = (t, responseWord .ok (value (s.decodedSyms cnt).length)) ∧
      t.bytesList 0 (s.decodedSyms cnt).length = s.decodedSyms cnt := by
  have hkept := s.keptSyms_length_le cnt
  have hlen := s.decodedSyms_length cnt
  rw [responseWord_ok_value (by omega)]
  refine ⟨_, issue_of_exec (i := .b32Dec cnt) (decide_eq_true (by omega)) (exec_b32Dec_of_le h _), ?_⟩
  exact Memory.readRange_writeRange_self s.buf fun k (hk : k < (s.decodedSyms cnt).length) =>
    mapped_bytesBase_add (by omega)

end Sys2Proof.Machine
end

section
/-! `encode` on the block (47_host_procedures.md R187): seven bytes in, the checksum symbol and eight suffix symbols out. -/

namespace Sys2Proof.Machine

/-- The identifier the host has laid down from BYTES[0] on. -/
theorem bytesList_issueAll_writeBytes (s : State) (id : Identifier) :
    (issueAll s (writeBytes bytesBase id.toList)).bytesList 0 7 = id.toList := by
  have hlen : id.toList.length = 7 := by simp
  have hread := readRange_issueAll_writeBytes s (base := bytesBase) (bs := id.toList) fun _ hk =>
    mapped_bytesBase_add (by omega)
  rwa [hlen] at hread

theorem State.bytesList_drop (s : State) : s.bytesList 2 5 = (s.bytesList 0 7).drop 2 := by
  have hsplit : s.bytesList 0 7 = s.bytesList 0 2 ++ s.bytesList 2 5 := s.buf.readRange_add bytesBase 2 5
  rw [hsplit, List.drop_left' (s.bytesList_length 0 2)]

/-- The five suffix bytes of an identifier. -/
def Identifier.suffixBytes (id : Identifier) : List Byte := id.toList.drop 2

@[simp] theorem Identifier.suffixBytes_length (id : Identifier) : id.suffixBytes.length = 5 := by
  simp [suffixBytes]

theorem Identifier.b32Encode_suffixBytes_length (id : Identifier) : (b32Encode id.suffixBytes).length = 8 := by
  rw [b32Encode_length, suffixBytes_length]

/-- Five bytes give exactly the eight symbols of the suffix. -/
theorem encodeId_eq_joinCode (d : Dictionary) (id : Identifier) : encodeId d id =
    joinCode (d.wordAt id[0]) (d.wordAt id[1]) ((b32Encode id.suffixBytes).map codeChar)
      (codeChar (alphabetCode (checksum5 id.toList).toNat)) := by
  have htake : (b32Encode (id.toList.drop 2)).take Config.suffixLen = b32Encode id.suffixBytes :=
    List.take_of_length_le (Identifier.b32Encode_suffixBytes_length id).le
  rw [encodeId, htake]

theorem encodeOnBlock_snd (d : Dictionary) (id : Identifier) (s : State) : (encodeOnBlock d id s).2 = encodeId d id := by
  have hid := bytesList_issueAll_writeBytes s id
  obtain ⟨s2, hck5, hsame2⟩ := issue_ck5 (issueAll s (writeBytes bytesBase id.toList)) (off := 0) (len := 7) (by decide)
  rw [hid] at hck5
  obtain ⟨s3, hb32Sym, hsame3⟩ := issue_b32Sym s2 (checksum5 id.toList).isLt
  obtain ⟨s4, w, hb32Enc, hsyms⟩ := issue_b32Enc s3 (off := 2) (len := 5) (by decide)
  rw [State.bytesList_drop, hsame3.bytesList, hsame2.bytesList, hid] at hsyms
  obtain ⟨s5, hread⟩ := readBytes_eq 8 s4 symsBase fun _ hk => mapped_symsBase_add (by omega)
  have hsuffix : s4.buf.readRange symsBase 8 = b32Encode id.suffixBytes := hsyms
  simp only [encodeOnBlock, hck5, toNat_responseValue (show 5 ≤ 24 by decide), hb32Sym, hb32Enc, hread, hsuffix,
    setWidth_responseValue (show 8 ≤ 24 by decide), encodeId_eq_joinCode]

end Sys2Proof.Machine
end

section
/-! Host characters and the codes the block holds for them (41_base32.md R92; 47_host_procedures.md R183, R185): the letters
and digits of a human code, in either case. -/

namespace Sys2Proof.Machine

/-! ### Characters and codes -/

@[simp] theorem codeChar_toNat (b : Byte) : (codeChar b).toNat = b.toNat := by
  have hvalid : b.toNat.isValidChar := .inl (by omega)
  rw [codeChar, Char.toNat_ofNat, if_pos hvalid]

@[simp] theorem charCode_codeChar (b : Byte) : charCode (codeChar b) = some b := by
  rw [charCode, codeChar_toNat, if_pos b.isLt, BitVec.ofNat_toNat, BitVec.setWidth_eq]

@[simp] theorem mapM_charCode_codeChar (bs : List Byte) : (bs.map codeChar).mapM charCode = some bs := by
  induction bs with
  | nil => rfl
  | cons b bs ih =>
    rw [List.map_cons, List.mapM_cons, charCode_codeChar, ih]
    rfl

@[simp] theorem asciiAlnumChar_codeChar (b : Byte) : asciiAlnumChar (codeChar b) = asciiAlnum b := by
  rw [asciiAlnumChar, codeChar_toNat, asciiAlnum]

theorem asciiAlnumChar_iff {c : Char} : asciiAlnumChar c = true ↔
    (0x30 ≤ c.toNat ∧ c.toNat ≤ 0x39) ∨ (0x41 ≤ c.toNat ∧ c.toNat ≤ 0x5A) ∨ (0x61 ≤ c.toNat ∧ c.toNat ≤ 0x7A) :=
  decide_eq_true_iff

/-- Every letter and digit of a host string has a code. -/
theorem exists_codeChar_of_asciiAlnumChar {c : Char} (h : asciiAlnumChar c = true) : ∃ b, codeChar b = c := by
  have hlt : c.toNat < 2 ^ 8 := by
    have hrange := asciiAlnumChar_iff.mp h
    omega
  refine ⟨BitVec.ofNat 8 c.toNat, ?_⟩
  rw [codeChar, BitVec.toNat_ofNat, Nat.mod_eq_of_lt hlt, Char.ofNat_toNat]

/-- A text of letters and digits is a text of codes. -/
theorem exists_codes_of_asciiAlnumChar {t : Text} (h : ∀ c ∈ t, asciiAlnumChar c = true) :
    ∃ codes : List Byte, codes.map codeChar = t ∧ ∀ b ∈ codes, asciiAlnum b = true := by
  obtain ⟨codes, rfl⟩ := (Set.range_list_map codeChar).ge fun c hc => exists_codeChar_of_asciiAlnumChar (h c hc)
  refine ⟨codes, rfl, fun b hb => ?_⟩
  rw [← asciiAlnumChar_codeChar]
  exact h _ (List.mem_map_of_mem hb)

/-! ### The suffix of a human code (R185 step 5) -/

/-- Eight letters and digits carry exactly five bytes. -/
theorem b32Decode_suffix {codes : List Byte} (hlen : codes.length = 8) (halnum : ∀ b ∈ codes, asciiAlnum b = true) :
    ∃ r, b32Decode asciiAlnum codes = some r ∧ r.length = 5 := by
  refine ⟨_, b32Decode_asciiAlnum codes, ?_⟩
  rw [bytesOfBits_length, flatMap_bitsOf_length, List.length_map, List.filter_eq_self.mpr halnum, hlen]

/-- On codes the host's suffix decoding is `b32_decode` with the block's predicate. -/
theorem decodeSuffix_codes {codes r : List Byte} (hr : b32Decode asciiAlnum codes = some r) (hlen : r.length = 5) :
    decodeSuffix asciiAlnumChar (codes.map codeChar) = .ok r := by
  simp only [decodeSuffix, mapM_charCode_codeChar, asciiAlnumChar_codeChar, Option.bind_some, hr, hlen, if_true]

/-- What is cut from a normalised text has only characters that normalisation keeps. -/
theorem suffix_of_splitCode {isAlnum : Char → Bool} {input : Text} {p : CodeParts} (h : splitCode isAlnum input = .ok p) :
    p.suffix.length = 8 ∧ ∀ c ∈ p.suffix, isAlnum c = true := by
  simp only [splitCode] at h
  split at h
  next hlen =>
    obtain rfl := Except.ok.inj h
    refine ⟨?_, fun c hc => List.of_mem_filter (List.mem_of_mem_drop (List.mem_of_mem_take hc))⟩
    rw [List.length_take, List.length_drop]
    omega
  next => exact absurd h (by simp)

end Sys2Proof.Machine
end

section
/-! `decode` on the block (47_host_procedures.md R188): the suffix's characters in, the identifier laid down, and the
checksum character held against `CK5`. -/

namespace Sys2Proof.Machine

/-- SYMS holds the suffix, `B32.DEC 8` answers 5, and the identifier of what it wrote is laid down. -/
theorem suffixOnBlock_eq (i0 i1 : Byte) {codes r : List Byte} (s : State) (hcodes : codes.length = 8)
    (hr : b32Decode asciiAlnum codes = some r) (hlen : r.length = 5) :
    ∃ t, suffixOnBlock i0 i1 codes s = (t, some (makeId i0 i1 r)) ∧ t.bytesList 0 7 = (makeId i0 i1 r).toList := by
  have hsyms : (issueAll s (writeBytes symsBase codes)).symsList 8 = codes := by
    have hread := readRange_issueAll_writeBytes s (base := symsBase) (bs := codes) fun _ hk =>
      mapped_symsBase_add (by omega)
    rwa [hcodes] at hread
  have hdecoded : (issueAll s (writeBytes symsBase codes)).decodedSyms 8 = r := by
    apply Option.some_injective
    rw [← State.b32Decode_symsList, hsyms, hr]
  obtain ⟨s2, hb32Dec, hbytes⟩ := issue_b32Dec (issueAll s (writeBytes symsBase codes)) (cnt := 8) (by decide)
  rw [hdecoded, hlen] at hb32Dec hbytes
  obtain ⟨s3, hread⟩ := readBytes_eq 5 s2 bytesBase fun _ hk => mapped_bytesBase_add (by omega)
  have hr' : s2.buf.readRange bytesBase 5 = r := hbytes
  refine ⟨_, ?_, bytesList_issueAll_writeBytes s3 (makeId i0 i1 r)⟩
  have hfive : value 5 = 5 := rfl
  simp only [suffixOnBlock, hb32Dec, hread, hr', hfive, if_true]

/-- The answers of `B32.VAL` and `CK5` are equal where the value is the checksum. -/
theorem value_eq_setWidth_iff {v : Nat} (hv : v < 32) (c : BitVec 5) : value v = c.setWidth 24 ↔ v = c.toNat := by
  rw [← BitVec.toNat_inj, value, BitVec.toNat_ofNat, BitVec.toNat_setWidth_of_le (by decide),
    Nat.mod_eq_of_lt (by omega)]

/-- With the identifier laid down, the host's comparison of the two answers is step 7 of R185. -/
theorem checkOnBlock_snd (tolerant : Bool) (check : Option Char) {id : Identifier} {s : State}
    (hid : s.bytesList 0 7 = id.toList) : (checkOnBlock tolerant check id s).2 = verifyCheck tolerant check id := by
  obtain ⟨s1, hck5, -⟩ := issue_ck5 s (off := 0) (len := 7) (by decide)
  rw [hid] at hck5
  cases check with
  | none => simp only [checkOnBlock, hck5, verifyCheck]
  | some c =>
    cases hc : charCode c with
    | none => simp only [checkOnBlock, hck5, verifyCheck, checkValue, hc, Option.bind_none]
    | some b =>
      cases tolerant with
      | true =>
        cases hv : b32Value b with
        | none =>
          obtain ⟨s2, hb32Val⟩ := issue_b32Val_of_none s1 hv
          simp only [checkOnBlock, hck5, verifyCheck, checkValue, hc, Option.bind_some, if_true, hv, hb32Val,
            responseStatus_responseWord]
        | some v =>
          obtain ⟨s2, hb32Val⟩ := issue_b32Val_of_some s1 hv
          have hok : statusCode .ok ≠ statusCode .invalidChar := by decide
          simp only [checkOnBlock, hck5, verifyCheck, checkValue, hc, Option.bind_some, if_true, hv, hb32Val,
            responseStatus_responseWord, hok, if_false, responseValue_responseWord, responseValue_setWidth,
            value_eq_setWidth_iff (b32Value_lt hv)]
          split <;> rfl
      | false =>
        cases hv : alphabetIndex (upperCode b) with
        | none =>
          simp only [checkOnBlock, hck5, verifyCheck, checkValue, hc, Option.bind_some, Bool.false_eq_true, if_false, hv]
        | some v =>
          simp only [checkOnBlock, hck5, verifyCheck, checkValue, hc, Option.bind_some, Bool.false_eq_true, if_false, hv,
            toNat_responseValue (show 5 ≤ 24 by decide)]
          split <;> rfl

/-- Steps 1 to 4 are the host's own; the suffix of a split code has codes, and its five bytes and the check follow on the
block as on the host. -/
theorem decodeOnBlock_snd (tolerant : Bool) (d : Dictionary) (input : Text) (s : State) :
    (decodeOnBlock ⟨tolerant, asciiAlnumChar⟩ d input s).2 = decodeId ⟨tolerant, asciiAlnumChar⟩ d input := by
  cases hsplit : splitCode asciiAlnumChar input with
  | error e => simp only [decodeOnBlock, decodeId, hsplit]
  | ok p =>
    cases hwords : lookUpWords d p with
    | error e => simp only [decodeOnBlock, decodeId, hsplit, hwords]
    | ok words =>
      obtain ⟨i0, i1⟩ := words
      obtain ⟨hlen, halnum⟩ := suffix_of_splitCode hsplit
      obtain ⟨codes, hcodes, hcodesAlnum⟩ := exists_codes_of_asciiAlnumChar halnum
      rw [← hcodes, List.length_map] at hlen
      obtain ⟨r, hr, hrlen⟩ := b32Decode_suffix hlen hcodesAlnum
      obtain ⟨t, hsuffix, hid⟩ := suffixOnBlock_eq i0 i1 s hlen hr hrlen
      simp only [decodeOnBlock, decodeId, hsplit, hwords, ← hcodes, mapM_charCode_codeChar, hsuffix,
        decodeSuffix_codes hr hrlen, checkOnBlock_snd tolerant p.check hid]

end Sys2Proof.Machine
end

section
/-! The codec's round trip (47_host_procedures.md R189): what normalisation makes of an encoded identifier, and that each part
of it reads back. -/

namespace Sys2Proof.Machine

/-! ### Lower-casing (R183) -/

theorem lowerChar_eq_self {c : Char} (h : ¬ (0x41 ≤ c.toNat ∧ c.toNat ≤ 0x5A)) : lowerChar c = c := if_neg h

theorem lowerChar_toNat {c : Char} (h : 0x41 ≤ c.toNat ∧ c.toNat ≤ 0x5A) : (lowerChar c).toNat = c.toNat + 0x20 := by
  have hvalid : (c.toNat + 0x20).isValidChar := .inl (by omega)
  rw [lowerChar, if_pos h, Char.toNat_ofNat, if_pos hvalid]

theorem lowerChar_lowerChar (c : Char) : lowerChar (lowerChar c) = lowerChar c := by
  apply lowerChar_eq_self
  by_cases h : 0x41 ≤ c.toNat ∧ c.toNat ≤ 0x5A
  · rw [lowerChar_toNat h]; omega
  · rwa [lowerChar_eq_self h]

/-- ASCII lower-casing of a code. -/
def lowerCode (b : Byte) : Byte := if 0x41 ≤ b.toNat ∧ b.toNat ≤ 0x5A then b + 0x20 else b

theorem lowerChar_codeChar (b : Byte) : lowerChar (codeChar b) = codeChar (lowerCode b) := by
  rw [lowerChar, lowerCode, codeChar_toNat]
  split
  next h => rw [codeChar, toNat_add_case h.2]
  next => rfl

/-- Case does not matter to what the block keeps and to the value it gives it (R92). -/
theorem lowerCode_tolerated (b : Byte) : asciiAlnum (lowerCode b) = asciiAlnum b ∧ b32Value (lowerCode b) = b32Value b := by
  rw [lowerCode]
  split
  next h => exact ⟨asciiAlnum_capital_add h.1 h.2, b32Value_capital_add h.1 h.2⟩
  next => exact ⟨rfl, rfl⟩

theorem b32Decode_map_lowerCode (codes : List Byte) :
    b32Decode asciiAlnum (codes.map lowerCode) = b32Decode asciiAlnum codes := by
  have hkept : asciiAlnum ∘ lowerCode = asciiAlnum := funext fun b => (lowerCode_tolerated b).1
  have hvalue : symbolValue ∘ lowerCode = symbolValue := funext fun b => congrArg (·.getD 0) (lowerCode_tolerated b).2
  rw [b32Decode_asciiAlnum, b32Decode_asciiAlnum, List.filter_map, hkept, List.map_map, hvalue]

/-! ### Normalisation (R183) -/

theorem trimText_eq_self {t : Text} (h : ∀ c ∈ t, c.isWhitespace = false) : trimText t = t := by
  have keep {l : Text} (hl : ∀ c ∈ l, c.isWhitespace = false) : l.dropWhile Char.isWhitespace = l :=
    List.dropWhile_eq_self_iff.mpr fun _ => by rw [hl _ (List.getElem_mem _)]; decide
  rw [trimText, keep h, keep fun c hc => h c (List.mem_reverse.mp hc), List.reverse_reverse]

theorem isWhitespace_eq_false {c : Char} (h : 0x21 ≤ c.toNat) : c.isWhitespace = false := by
  have hne (d : Char) (hd : d.toNat < 0x21) : c ≠ d := fun hcd => by
    rw [hcd] at h
    omega
  simp [Char.isWhitespace, hne ' ' (by decide), hne '\t' (by decide), hne '\r' (by decide), hne '\n' (by decide)]

theorem lowerAlnumChar_iff {c : Char} : lowerAlnumChar c = true ↔
    (0x30 ≤ c.toNat ∧ c.toNat ≤ 0x39) ∨ (0x61 ≤ c.toNat ∧ c.toNat ≤ 0x7A) := decide_eq_true_iff

theorem asciiAlnumChar_of_lowerAlnumChar {c : Char} (h : lowerAlnumChar c = true) : asciiAlnumChar c = true :=
  asciiAlnumChar_iff.mpr ((lowerAlnumChar_iff.mp h).imp_right .inr)

theorem lowerChar_of_lowerAlnumChar {c : Char} (h : lowerAlnumChar c = true) : lowerChar c = c := by
  have hrange := lowerAlnumChar_iff.mp h
  exact lowerChar_eq_self (by omega)

/-- Symbols in either case are letters and digits of the host. -/
theorem asciiAlnumChar_of_mem_symbols {codes : List Byte} (h : ∀ b ∈ codes, asciiAlnum b = true) :
    ∀ c ∈ (codes.map lowerCode).map codeChar, asciiAlnumChar c = true := by
  simpa only [List.forall_mem_map, asciiAlnumChar_codeChar, (lowerCode_tolerated _).1] using h

section

variable {w0 w1 : Text} {suffix : List Byte} {check : Byte}

/-- The canonical form of two words of `[a-z0-9]` and symbols given by their codes (R182). -/
theorem joinCode_eq (h0 : ∀ c ∈ w0, lowerAlnumChar c = true) (h1 : ∀ c ∈ w1, lowerAlnumChar c = true) :
    joinCode w0 w1 (suffix.map codeChar) (codeChar check) =
      w0 ++ ['-'] ++ w1 ++ ['-'] ++ ((suffix ++ [check]).map lowerCode).map codeChar := by
  have hword {w : Text} (hw : ∀ c ∈ w, lowerAlnumChar c = true) : w.map lowerChar = w :=
    (List.map_congr_left fun c hc => lowerChar_of_lowerAlnumChar (hw c hc)).trans (List.map_id' w)
  have hdash : ['-'].map lowerChar = ['-'] := by decide
  simp only [joinCode, List.map_append, hword h0, hword h1, hdash, List.map_map, Function.comp_def, lowerChar_codeChar,
    List.map_singleton, List.append_assoc]

/-- Normalising a canonical form drops its two dashes and nothing else. -/
theorem normalize_joinCode (h0 : ∀ c ∈ w0, lowerAlnumChar c = true) (h1 : ∀ c ∈ w1, lowerAlnumChar c = true)
    (hsymbols : ∀ b ∈ suffix ++ [check], asciiAlnum b = true) :
    normalize asciiAlnumChar (joinCode w0 w1 (suffix.map codeChar) (codeChar check)) =
      w0 ++ w1 ++ ((suffix ++ [check]).map lowerCode).map codeChar := by
  have hjoin := joinCode_eq (suffix := suffix) (check := check) h0 h1
  have hkept0 := fun c hc => asciiAlnumChar_of_lowerAlnumChar (h0 c hc)
  have hkept1 := fun c hc => asciiAlnumChar_of_lowerAlnumChar (h1 c hc)
  have hkept := asciiAlnumChar_of_mem_symbols hsymbols
  have htrim : trimText (joinCode w0 w1 (suffix.map codeChar) (codeChar check)) =
      joinCode w0 w1 (suffix.map codeChar) (codeChar check) := by
    refine trimText_eq_self fun c hc => isWhitespace_eq_false ?_
    rw [hjoin] at hc
    simp only [List.mem_append, List.mem_singleton] at hc
    have hc : asciiAlnumChar c = true ∨ c = '-' := by
      obtain (((hc | hc) | hc) | hc) | hc := hc
      · exact .inl (hkept0 c hc)
      · exact .inr hc
      · exact .inl (hkept1 c hc)
      · exact .inr hc
      · exact .inl (hkept c hc)
    obtain hc | rfl := hc
    · have hrange := asciiAlnumChar_iff.mp hc
      omega
    · decide
  have hlower : (joinCode w0 w1 (suffix.map codeChar) (codeChar check)).map lowerChar =
      joinCode w0 w1 (suffix.map codeChar) (codeChar check) := by
    simp only [joinCode, List.map_map, Function.comp_def, lowerChar_lowerChar]
  have hdash : ['-'].filter asciiAlnumChar = [] := by decide
  rw [normalize, htrim, hlower, hjoin]
  simp only [List.filter_append, List.filter_eq_self.mpr hkept0, List.filter_eq_self.mpr hkept1, hdash, List.append_nil,
    List.filter_eq_self.mpr hkept]

end

/-! ### The parts read back -/

/-- The cuts of R185 step 3 fall between the parts. -/
theorem splitCode_of_normalize {isAlnum : Char → Bool} {input w0 w1 suffix : Text} {check : Char}
    (h : normalize isAlnum input = w0 ++ (w1 ++ (suffix ++ [check]))) (h0 : w0.length = 5) (h1 : w1.length = 5)
    (hsuffix : suffix.length = 8) : splitCode isAlnum input = .ok ⟨w0, w1, suffix, some check⟩ := by
  have hlen : (w0 ++ (w1 ++ (suffix ++ [check]))).length = 19 := by simp [h0, h1, hsuffix]
  have hdrop5 : (w0 ++ (w1 ++ (suffix ++ [check]))).drop 5 = w1 ++ (suffix ++ [check]) := List.drop_left' h0
  have hdrop10 : (w0 ++ (w1 ++ (suffix ++ [check]))).drop 10 = suffix ++ [check] := by
    rw [← List.append_assoc]
    exact List.drop_left' (by simp [h0, h1])
  have hcheck : (w0 ++ (w1 ++ (suffix ++ [check])))[18]? = some check := by
    have hfront : (w0 ++ w1 ++ suffix).length = 18 := by simp [h0, h1, hsuffix]
    rw [← List.append_assoc, ← List.append_assoc, ← hfront, List.getElem?_concat_length]
  simp only [splitCode, h, hlen, or_true, if_true, hdrop5, hdrop10, hcheck, List.take_left' h0, List.take_left' h1,
    List.take_left' hsuffix]

/-- The constraints of R181. -/
theorem Dictionary.constraints (d : Dictionary) :
    d.words.length = 256 ∧ d.words.Nodup ∧ ∀ w ∈ d.words, w.length = 5 ∧ ∀ c ∈ w, lowerAlnumChar c = true := by
  have hok := d.ok
  simp only [dictionaryOk, wordShape, Bool.and_eq_true, beq_iff_eq, decide_eq_true_iff, List.all_eq_true] at hok
  obtain ⟨⟨hlen, hnodup⟩, hshape⟩ := hok
  exact ⟨hlen, hnodup, hshape⟩

/-- Every byte stands for a word. -/
theorem Dictionary.wordAt_getElem? (d : Dictionary) (b : Byte) : d.words[b.toNat]? = some (d.wordAt b) := by
  obtain ⟨hlen, -, -⟩ := d.constraints
  have hb : b.toNat < d.words.length := by omega
  rw [wordAt, List.getD_eq_getElem _ _ hb, List.getElem?_eq_getElem hb]

theorem Dictionary.wordAt_shape (d : Dictionary) (b : Byte) :
    (d.wordAt b).length = 5 ∧ ∀ c ∈ d.wordAt b, lowerAlnumChar c = true := by
  obtain ⟨-, -, hshape⟩ := d.constraints
  exact hshape _ (List.mem_of_getElem? (d.wordAt_getElem? b))

/-- No two words of a dictionary are alike, so a word's index is the byte it stands for (R181). -/
theorem Dictionary.indexOf_wordAt (d : Dictionary) (b : Byte) : d.indexOf (d.wordAt b) = some b := by
  obtain ⟨-, hnodup, -⟩ := d.constraints
  obtain ⟨hb, hword⟩ := List.getElem?_eq_some_iff.mp (d.wordAt_getElem? b)
  have hindex : d.words.idxOf? (d.wordAt b) = some b.toNat :=
    List.idxOf?_eq_some_iff.mpr ⟨hb, hword, fun j hj heq => hj.ne (hnodup.getElem_inj_iff.mp (heq.trans hword.symm))⟩
  rw [indexOf, hindex, Option.map_some, BitVec.ofNat_toNat, BitVec.setWidth_eq]

theorem alphabetIndex_lowerCode_alphabetCode :
    ∀ v < 32, alphabetIndex (upperCode (lowerCode (alphabetCode v))) = some v := by decide

/-- A checksum character reads back in both readings (R185 step 7). -/
theorem checkValue_symbol (tolerant : Bool) {v : Nat} (h : v < 32) :
    checkValue tolerant (codeChar (lowerCode (alphabetCode v))) = some v := by
  rw [checkValue, charCode_codeChar, Option.bind_some]
  split
  · rw [(lowerCode_tolerated _).2, b32Value_alphabetCode v h]
  · exact alphabetIndex_lowerCode_alphabetCode v h

theorem makeId_suffixBytes (id : Identifier) : makeId id[0] id[1] id.suffixBytes = id := by
  apply Vector.ext
  intro i hi
  match i, hi with
  | 0, _ | 1, _ | 2, _ | 3, _ | 4, _ | 5, _ | 6, _ => simp [makeId, Identifier.suffixBytes]

/-- The parts an encoded identifier is split into: the two words, the suffix symbols and the checksum symbol (R184, R185). -/
theorem splitCode_encodeId (d : Dictionary) (id : Identifier) : splitCode asciiAlnumChar (encodeId d id) =
    .ok ⟨d.wordAt id[0], d.wordAt id[1], ((b32Encode id.suffixBytes).map lowerCode).map codeChar,
      some (codeChar (lowerCode (alphabetCode (checksum5 id.toList).toNat)))⟩ := by
  obtain ⟨hlen0, hword0⟩ := d.wordAt_shape id[0]
  obtain ⟨hlen1, hword1⟩ := d.wordAt_shape id[1]
  have hsymbols : ∀ b ∈ b32Encode id.suffixBytes ++ [alphabetCode (checksum5 id.toList).toNat], asciiAlnum b = true := by
    intro b hb
    obtain hb | hb := List.mem_append.mp hb
    · exact asciiAlnum_of_mem_b32Encode hb
    · rw [List.mem_singleton.mp hb]
      exact asciiAlnum_alphabetCode _ (checksum5 id.toList).isLt
  apply splitCode_of_normalize _ hlen0 hlen1
  · rw [List.length_map, List.length_map, id.b32Encode_suffixBytes_length]
  · rw [encodeId_eq_joinCode, normalize_joinCode hword0 hword1 hsymbols]
    simp only [List.map_append, List.map_singleton, List.append_assoc]

theorem decodeId_encodeId (tolerant : Bool) (d : Dictionary) (id : Identifier) :
    decodeId ⟨tolerant, asciiAlnumChar⟩ d (encodeId d id) = .ok ⟨id, true⟩ := by
  have hsuffix : decodeSuffix asciiAlnumChar (((b32Encode id.suffixBytes).map lowerCode).map codeChar) = .ok id.suffixBytes :=
    decodeSuffix_codes ((b32Decode_map_lowerCode _).trans (b32Decode_b32Encode _)) id.suffixBytes_length
  have hcheck := checkValue_symbol tolerant (checksum5 id.toList).isLt
  simp only [decodeId, splitCode_encodeId, lookUpWords, d.indexOf_wordAt, hsuffix, makeId_suffixBytes, verifyCheck, hcheck,
    if_true]

end Sys2Proof.Machine
end

section
/-! How many codewords `pack` gives (47_host_procedures.md R190): the packed bits fit 152 up to 25 characters, and the filler
bytes make up the 19. -/

namespace Sys2Proof.Machine

/-! ### Characters -/

theorem packValue_eq_none {c : Char} (h : c ∉ packAlphabet) : packValue c = none := List.idxOf?_eq_none_iff.mpr h

theorem packValue_of_mem {c : Char} (h : c ∈ packAlphabet) : packValue c = some ((packValue c).getD 0) := by
  have hsome : (packValue c).isSome = true := List.isSome_idxOf?.mpr h
  rw [Option.eq_some_of_isSome hsome, Option.getD_some]

theorem mapM_eq_none_of_mem {α β : Type} {f : α → Option β} {l : List α} {a : α} (hmem : a ∈ l) (ha : f a = none) :
    l.mapM f = none := by
  obtain ⟨pre, post, rfl⟩ := List.append_of_mem hmem
  rw [List.mapM_append, List.mapM_cons, ha]
  cases pre.mapM f with
  | none | some => rfl

/-- A text of the alphabet has one value for each character. -/
theorem exists_mapM_packValue {t : Text} (h : ∀ c ∈ t, c ∈ packAlphabet) :
    ∃ vs, t.mapM packValue = some vs ∧ vs.length = t.length := by
  exact ⟨_, mapM_eq_some_map fun c hc => packValue_of_mem (h c hc), List.length_map _⟩

/-! ### Bits -/

/-- 11 bits for each pair and 6 for a trailing character. -/
theorem packPairs_length (vs : List Nat) : (packPairs vs).length = 11 * (vs.length / 2) + 6 * (vs.length % 2) := by
  induction vs using packPairs.induct with
  | case1 v0 v1 rest ih =>
    rw [packPairs, List.length_append, bitsOf_length, ih, List.length_cons, List.length_cons]
    omega
  | case2 v => simp [packPairs]
  | case3 => rfl

theorem packBits_length (vs : List Nat) : (packBits vs).length = 13 + 11 * (vs.length / 2) + 6 * (vs.length % 2) := by
  simp only [packBits, List.length_append, bitsOf_length, packPairs_length]
  omega

/-- Terminator and padding keep within the 152 bits: what they fill up is whole bytes. -/
theorem terminate_length_le {bits : List Bool} (h : bits.length ≤ 152) : (terminate bits).length ≤ 152 := by
  simp only [terminate, Config.dataBits, List.length_append, List.length_replicate]
  omega

@[simp] theorem fillers_length (n : Nat) : (fillers n).length = n := by simp [fillers]

/-! ### Codewords -/

theorem pack_of_not_mem {text : Text} {c : Char} (hmem : c ∈ text) (hc : upperChar c ∉ packAlphabet) :
    pack text = .error .unsupportedChar := by
  simp only [pack, mapM_eq_none_of_mem (List.mem_map_of_mem hmem) (packValue_eq_none hc)]

/-- The packed bits of a text of the alphabet: too many, or filled up to 19 codewords. -/
theorem pack_of_mem {text : Text} (h : ∀ c ∈ text, upperChar c ∈ packAlphabet) :
    ∃ vs : List Nat, vs.length = text.length ∧ pack text =
      if (packBits vs).length > 152 then .error .textTooLong
      else .ok (bytesOfBits (terminate (packBits vs)) ++ fillers (19 - (bytesOfBits (terminate (packBits vs))).length)) := by
  obtain ⟨vs, hvs, hlen⟩ := exists_mapM_packValue (List.forall_mem_map.mpr h)
  rw [List.length_map] at hlen
  refine ⟨vs, hlen, ?_⟩
  simp only [pack, hvs]
  rfl

theorem pack_of_length_ge {text : Text} (h : ∀ c ∈ text, upperChar c ∈ packAlphabet) (hlen : 26 ≤ text.length) :
    pack text = .error .textTooLong := by
  obtain ⟨vs, hvs, hpack⟩ := pack_of_mem h
  have hbits := packBits_length vs
  rw [hpack, if_pos (by omega)]

theorem pack_of_length_le {text : Text} (h : ∀ c ∈ text, upperChar c ∈ packAlphabet) (hlen : text.length ≤ 25) :
    ∃ cw, pack text = .ok cw ∧ cw.length = 19 := by
  obtain ⟨vs, hvs, hpack⟩ := pack_of_mem h
  have hbits := packBits_length vs
  have hfit : (packBits vs).length ≤ 152 := by omega
  have hcw : (bytesOfBits (terminate (packBits vs))).length ≤ 19 := by
    have hterminated := terminate_length_le hfit
    rw [bytesOfBits_length]
    omega
  refine ⟨_, hpack.trans (if_neg (Nat.not_lt.mpr hfit)), ?_⟩
  rw [List.length_append, fillers_length]
  omega

/-- What `pack` gives is always 19 codewords. -/
theorem length_of_pack {text : Text} {cw : List Byte} (h : pack text = .ok cw) : cw.length = 19 := by
  by_cases hmem : ∀ c ∈ text, upperChar c ∈ packAlphabet
  · by_cases hlen : text.length ≤ 25
    · obtain ⟨cw', hpack, hcw⟩ := pack_of_length_le hmem hlen
      rw [hpack] at h
      exact Except.ok.inj h ▸ hcw
    · rw [pack_of_length_ge hmem (by omega)] at h
      cases h
  · push Not at hmem
    obtain ⟨c, hc, hout⟩ := hmem
    rw [pack_of_not_mem hc hout] at h
    cases h

end Sys2Proof.Machine
end

section
/-! `qr_matrix` on the block (47_host_procedures.md R192): the codewords laid down, the symbol drawn, and its rows read. -/

namespace Sys2Proof.Machine

/-! ### The commands of the sequence -/

theorem issue_rsEnc (s : State) :
    ∃ t w, issue s .rsEnc = (t, w) ∧ t.cwList 26 = s.cwList 19 ++ rsRemainder (s.cwList 19) :=
  ⟨_, _, issue_of_exec rfl (exec_rsEnc _), State.cwList_rsEncoded _⟩

theorem issue_fmtEnc (s : State) (d : BitVec 5) :
    ∃ t, issue s (.fmtEnc d.toNat) = (t, (bchFormat d).setWidth 32) ∧ t.sameBlock s := by
  have hexec := exec_fmtEnc_of_le (Nat.le_of_lt_succ d.isLt) (s.accepting (.fmtEnc d.toNat))
  rw [BitVec.ofNat_toNat, BitVec.setWidth_eq] at hexec
  exact issue_of_answer (decide_eq_true (by omega)) hexec

/-- The symbol's first state: both planes as drawn and CW as it stood. -/
theorem issue_qrInit (s : State) : ∃ t w, issue s .qrInit = (t, w) ∧ t.mod = modPattern ∧ t.func = funcPattern ∧
    t.qrst = stageInit ∧ ∀ n, t.cwList n = s.cwList n :=
  ⟨_, _, issue_of_exec rfl (exec_qrInit _), rfl, rfl, rfl, fun _ => rfl⟩

theorem issue_qrData {s : State} (hinit : s.initDone = true) (hdata : s.dataDone = false) :
    ∃ t w, issue s .qrData = (t, w) ∧ t.mod = s.mod.putAll (dataWrites s.func (s.cwList 26)) ∧
      t.qrst = setDataDone s.qrst :=
  ⟨_, _, issue_of_exec rfl (exec_qrData_of_ready (s := s.accepting .qrData) hinit hdata), rfl, rfl⟩

theorem issue_qrFmt {s : State} (hinit : s.initDone = true) (hfmt : s.fmtDone = false) (imm15 : FormatWord) :
    ∃ t w, issue s (.qrFmt imm15) = (t, w) ∧ t.mod = s.mod.putAll (formatWrites imm15) :=
  ⟨_, _, issue_of_exec rfl (exec_qrFmt_of_ready (s := s.accepting (.qrFmt imm15)) hinit hfmt imm15), rfl⟩

theorem issue_qrRow (s : State) (y : Fin 21) :
    ∃ t, issue s (.qrRow y.val 0) = (t, responseWord .ok (value (rowValue s.mod y))) ∧ t.sameBlock s :=
  issue_of_answer (fits8_and_of_le (Nat.le_of_lt_succ y.isLt)) (exec_qrRow_mod y _)

/-! ### Drawing the symbol and reading its rows -/

/-- `QR.INIT`, `QR.DATA` and `QR.FMT` draw the symbol of the codewords that CW holds, whatever stood in the planes. -/
theorem issueAll_draw_mod {s : State} {data : List Byte} (hcw : s.cwList 26 = data ++ rsRemainder data) :
    (issueAll s [.qrInit, .qrData, .qrFmt (bchFormat fmtDescL0)]).mod = symbolOf data := by
  obtain ⟨s1, _, hinit, hmod1, hfunc1, hqrst1, hcw1⟩ := issue_qrInit s
  obtain ⟨s2, _, hdata, hmod2, hqrst2⟩ := issue_qrData (s := s1) (by rw [State.initDone, hqrst1]; rfl)
    (by rw [State.dataDone, hqrst1]; rfl)
  obtain ⟨s3, _, hfmt, hmod3⟩ := issue_qrFmt (s := s2) (by rw [State.initDone, hqrst2, hqrst1]; rfl)
    (by rw [State.fmtDone, hqrst2, hqrst1]; rfl) (bchFormat fmtDescL0)
  simp only [issueAll, hinit, hdata, hfmt, hmod3, hmod2, hmod1, hfunc1, hcw1, hcw, symbolOf]

/-- The host's run of `QR.ROW` reads the rows of MOD: no read changes it. -/
theorem readRows_eq (n : Nat) : ∀ (s : State) (y : Nat), y + n ≤ 21 →
    ∃ t, readRows s y n = (t, (List.range' y n).map fun k => value (rowValue s.mod (Fin.ofNat 21 k))) := by
  induction n with
  | zero => intro s y _; exact ⟨s, rfl⟩
  | succ n ih =>
    intro s y h
    obtain ⟨t, hissue, hsame⟩ := issue_qrRow s (Fin.ofNat 21 y)
    rw [Fin.val_ofNat, Nat.mod_eq_of_lt (by omega)] at hissue
    obtain ⟨u, hread⟩ := ih t (y + 1) (by omega)
    refine ⟨u, ?_⟩
    simp only [readRows, hissue, hread, responseValue_responseWord, hsame.mod, List.range'_succ, List.map_cons]

theorem finRange_eq_map_range' : List.finRange 21 = (List.range' 0 21).map (Fin.ofNat 21) := by decide

theorem readRows_all (s : State) :
    ∃ t, readRows s 0 21 = (t, (List.finRange 21).map fun y => value (rowValue s.mod y)) := by
  rw [finRange_eq_map_range', List.map_map]
  exact readRows_eq 21 s 0 (by decide)

/-- The data codewords the host has laid down from CW[0] on. -/
theorem cwList_issueAll_writeBytes (s : State) {cw : List Byte} (h : cw.length = 19) :
    (issueAll s (writeBytes cwBase cw)).cwList 19 = cw := by
  have hread := readRange_issueAll_writeBytes s (base := cwBase) (bs := cw) fun k hk =>
    (mapped_iff _).mpr (.inl (by rw [cwBase]; omega))
  rwa [h] at hread

/-- Where `pack` gives codewords, the sequence reads back the symbol drawn from them; where it fails, nothing is issued. -/
theorem qrMatrixOnBlock_snd (text : Text) (s : State) : (qrMatrixOnBlock text s).2 =
    (qrMatrix text).map fun m => (List.finRange 21).map fun y => value (rowValue m y) := by
  cases hpack : pack text with
  | error e => simp only [qrMatrixOnBlock, qrMatrix, hpack, Except.map]
  | ok cw =>
    have hcw := cwList_issueAll_writeBytes s (length_of_pack hpack)
    obtain ⟨s2, w, hrsEnc, hcw2⟩ := issue_rsEnc (issueAll s (writeBytes cwBase cw))
    obtain ⟨s3, hfmtEnc, hsame3⟩ := issue_fmtEnc s2 fmtDescL0
    rw [hcw, ← hsame3.cwList] at hcw2
    obtain ⟨s5, hrows⟩ := readRows_all (issueAll s3 [.qrInit, .qrData, .qrFmt (bchFormat fmtDescL0)])
    rw [issueAll_draw_mod hcw2] at hrows
    simp only [qrMatrixOnBlock, qrMatrix, hpack, hrsEnc, hfmtEnc, setWidth_responseValue (show 15 ≤ 24 by decide), hrows,
      Except.map]

end Sys2Proof.Machine
end

section
/-! The statements of 47_host_procedures.md. -/

namespace Sys2Proof.Proofs.HostProcedures

open Sys2Proof Sys2Proof.Machine

/-- Settles O56: the block's answers are the checksum symbol and the suffix symbols of the identifier laid down. -/
theorem encodeOnTheBlockIsEncode : Obligations.EncodeOnTheBlockIsEncode := encodeOnBlock_snd

/-- Settles O57, step by step of `decode`. -/
theorem decodeOnTheBlockIsDecode : Obligations.DecodeOnTheBlockIsDecode := decodeOnBlock_snd

/-- Settles O58: CW holds the codewords, `QR.INIT`, `QR.DATA` and `QR.FMT` draw their symbol, and the rows read are its rows. -/
theorem qrMatrixOnTheBlockIsQrMatrix : Obligations.QrMatrixOnTheBlockIsQrMatrix := qrMatrixOnBlock_snd

/-- Settles O59: the code splits into the parts it was joined from, and each part reads back. -/
theorem identifierCodecRoundTrip : Obligations.IdentifierCodecRoundTrip := decodeId_encodeId

/-- Settles O60, by the length of the packed bits: 151 at 25 characters and 156 at 26. -/
theorem packGivesNineteenCodewords : Obligations.PackGivesNineteenCodewords :=
  fun _ => ⟨fun ⟨_, hmem, hout⟩ => pack_of_not_mem hmem hout, pack_of_length_ge, pack_of_length_le⟩

end Sys2Proof.Proofs.HostProcedures
end
